-- ==== Sys2Proof/Word.lean ====
section
/-! DEFINITION. Words and bytes (00_scope.md R10): the two bit-vector types of the block, and the
identity `settle`, which makes evaluation compute a word before it goes on. -/

namespace Sys2Proof

/-- A 32-bit unsigned word, bit 0 the least significant (R10). -/
abbrev Word := BitVec 32

/-- A byte. -/
abbrev Byte := BitVec 8

/-- `settle w k` is `k w` (theorem `settle_eq`). Evaluation computes the number `w` stands for before it
runs `k`, so that a long computation in Lean's kernel holds numerals, not ever deeper expressions.
It has no counterpart in the hardware. -/
def settle {α : Type} (w : Word) (k : Word → α) : α :=
  match w.toNat with
  | 0 => k 0
  | n + 1 => k (BitVec.ofNat 32 (n + 1))

@[simp] theorem settle_eq {α : Type} (w : Word) (k : Word → α) : settle w k = k w := by
  have hw : BitVec.ofNat 32 w.toNat = w := by simp
  unfold settle
  split
  · next h => rw [← hw, h]; rfl
  · next n h => exact congrArg k (by rw [← hw, h])

/-- `settleList` settles every word of a list (theorem `settleList_eq`). -/
def settleList {α : Type} : List Word → (List Word → α) → α
  | [], k => k []
  | w :: ws, k => settle w fun w' => settleList ws fun ws' => k (w' :: ws')

@[simp] theorem settleList_eq {α : Type} (ws : List Word) (k : List Word → α) :
    settleList ws k = k ws := by
  induction ws generalizing k with
  | nil => rfl
  | cons w ws ih => simp [settleList, ih]

end Sys2Proof
end

