-- ==== Sys2Proof/Syntax.lean ====
section
/-! DEFINITION. The commands of SPARKLE-CORE as syntax: one constructor per row of spec/opcode_table.json
(30_encoding.md R106), with the fields the command uses (R100 to R104). -/

namespace Sys2Proof

/-- A command. `nb` is the branch-count code of R103, `steps` the step count of R104, `len` the byte count
of R102. -/
inductive Instr where
  | nop
  | clear
  | perm (nb : BitVec 2) (steps : BitVec 5)
  | hashInit
  | hashAbsorb
  | hashLast (len : BitVec 6)
  | hashSqueeze
  | aeadInit
  | aeadAd
  | aeadAdLast (len : BitVec 6)
  | aeadEnc
  | aeadEncLast (len : BitVec 6)
  | aeadDec
  | aeadDecLast (len : BitVec 6)
  | aeadTag
  | aeadVerify
deriving DecidableEq, Repr

end Sys2Proof
end

