-- ==== Sys2Proof/WellFormed.lean ====
section
/-! DEFINITION. Which commands are well formed. Every value of LEN and STEPS has an encoding (30_encoding.md
R102, R104); the one reserved operand is NB = 3 in PERM (R103). -/

namespace Sys2Proof

/-- R103, R105: the branch-count code of PERM is 0, 1 or 2. -/
def Instr.wf : Instr → Bool
  | .perm nb _ => nb != 3
  | _ => true

end Sys2Proof
end

