-- ==== Sys2Proof/Decode.lean ====
section
/-! DEFINITION. Decoding and encoding of command words (30_encoding.md R100 to R113). -/

namespace Sys2Proof

/-- Why a word is illegal (R105, in the order of 60_exceptions.md R242). The block reports all of them as ILLEGAL. -/
inductive DecodeError where
  /-- OP is one of the 16 reserved values (R108). -/
  | reservedOp
  /-- Bits 7:5 or bits 31:21 are not 0. -/
  | reservedBits
  /-- LEN is not 0 in a command other than the four last-block commands. -/
  | unusedLen
  /-- NB or STEPS is not 0 in a command other than PERM. -/
  | unusedNbSteps
  /-- NB = 3 in PERM. -/
  | reservedNb
deriving DecidableEq, Repr

/-- OP = w[4:0] (R101). -/
def opField (w : Word) : BitVec 5 := w.extractLsb' 0 5

/-- w[7:5], reserved (R100). -/
def lowReserved (w : Word) : BitVec 3 := w.extractLsb' 5 3

/-- LEN = w[13:8] (R102). -/
def lenField (w : Word) : BitVec 6 := w.extractLsb' 8 6

/-- NB = w[15:14] (R103); the word 90_conflicts.md C10 gives with NB = 3 is illegal here (R113; log entry 15). -/
def nbField (w : Word) : BitVec 2 := w.extractLsb' 14 2

/-- STEPS = w[20:16] (R104). -/
def stepsField (w : Word) : BitVec 5 := w.extractLsb' 16 5

/-- w[31:21], reserved (R100). -/
def highReserved (w : Word) : BitVec 11 := w.extractLsb' 21 11

/-- The opcode map (R106): the command an OP value names, with the fields it uses; `none` for the 16
reserved values (R108). -/
def instrOf (op : BitVec 5) (len : BitVec 6) (nb : BitVec 2) (steps : BitVec 5) : Option Instr :=
  match op.toNat with
  | 0x00 => some .nop
  | 0x01 => some .clear
  | 0x02 => some (.perm nb steps)
  | 0x08 => some .hashInit
  | 0x09 => some .hashAbsorb
  | 0x0A => some (.hashLast len)
  | 0x0B => some .hashSqueeze
  | 0x10 => some .aeadInit
  | 0x11 => some .aeadAd
  | 0x12 => some (.aeadAdLast len)
  | 0x13 => some .aeadEnc
  | 0x14 => some (.aeadEncLast len)
  | 0x15 => some .aeadDec
  | 0x16 => some (.aeadDecLast len)
  | 0x17 => some .aeadTag
  | 0x18 => some .aeadVerify
  | _ => none

/-- The four last-block commands, which use LEN (R102). -/
def Instr.usesLen : Instr → Bool
  | .hashLast _ | .aeadAdLast _ | .aeadEncLast _ | .aeadDecLast _ => true
  | _ => false

/-- PERM, the one command that uses NB and STEPS (R103, R104). -/
def Instr.usesNbSteps : Instr → Bool
  | .perm _ _ => true
  | _ => false

/-- Decode(w) (R113): the command a word names, or why it is illegal (R105). Total on all 2^32 words. -/
def decode (w : Word) : Except DecodeError Instr :=
  match instrOf (opField w) (lenField w) (nbField w) (stepsField w) with
  | none => .error .reservedOp
  | some i =>
    if lowReserved w ≠ 0 ∨ highReserved w ≠ 0 then .error .reservedBits
    else if i.usesLen = false ∧ lenField w ≠ 0 then .error .unusedLen
    else if i.usesNbSteps = false ∧ (nbField w ≠ 0 ∨ stepsField w ≠ 0) then .error .unusedNbSteps
    else if i.wf = false then .error .reservedNb
    else .ok i

/-- The host's reading of a table row: a command is one 32-bit word (R100, R109); bits above `nbits` are 0. -/
def decodeTableWord (nbits w : Nat) : Option Instr :=
  if nbits ≤ 32 then
    match decode (BitVec.ofNat 32 (w % 2 ^ nbits)) with
    | .ok i => some i
    | .error _ => none
  else none

/-- The format of R100, most significant field first: 0, STEPS, NB, LEN, 0, OP. -/
def packWord (op : BitVec 5) (len : BitVec 6) (nb : BitVec 2) (steps : BitVec 5) : Word :=
  (0 : BitVec 11) ++ steps ++ nb ++ len ++ (0 : BitVec 3) ++ op

/-- The word of a command (R106, R110). -/
def encode : Instr → Word
  | .nop => packWord 0x00 0 0 0
  | .clear => packWord 0x01 0 0 0
  | .perm nb steps => packWord 0x02 0 nb steps
  | .hashInit => packWord 0x08 0 0 0
  | .hashAbsorb => packWord 0x09 0 0 0
  | .hashLast len => packWord 0x0A len 0 0
  | .hashSqueeze => packWord 0x0B 0 0 0
  | .aeadInit => packWord 0x10 0 0 0
  | .aeadAd => packWord 0x11 0 0 0
  | .aeadAdLast len => packWord 0x12 len 0 0
  | .aeadEnc => packWord 0x13 0 0 0
  | .aeadEncLast len => packWord 0x14 len 0 0
  | .aeadDec => packWord 0x15 0 0 0
  | .aeadDecLast len => packWord 0x16 len 0 0
  | .aeadTag => packWord 0x17 0 0 0
  | .aeadVerify => packWord 0x18 0 0 0

end Sys2Proof
end

