-- ==== Sys2Proof/Config.lean ====
section
/-! DEFINITION. The variants of the block (00_scope.md R2), the parameters the spec leaves open (R9), and the
free values. What is open is an opaque constant: no proof can see its value. -/

namespace Sys2Proof

/-- The five algorithm variants (00_scope.md R2, R8), which CONFIG.VARIANT selects. -/
inductive Variant where
  | esch256
  | esch384
  | schwaemm128_128
  | schwaemm192_192
  | schwaemm256_128
deriving DecidableEq, Repr

/-- The n-th "any value" of a run (93_implementation_defined.md U1, U3): a free value, log entry 3. -/
opaque Config.freeWord : Nat → Word

/-- CORE_BASE, the bus address of byte offset 0 of the window (00_scope.md R9, U4): open, log entry 7. -/
opaque Config.coreBase : Nat

/-- LAT minus one. LAT depends on the command word and the variant only (70_reset_and_hazards.md R291): open. -/
opaque Config.latencyLessOne : Word → Variant → Nat

/-- LAT(w, V), at least 1 cycle (R290). No rule depends on it and no step of the model reads it:
log entry 9. -/
def Config.latency (w : Word) (V : Variant) : Nat := 1 + Config.latencyLessOne w V

end Sys2Proof
end

