-- ==== Sys2Proof/Machine/Params.lean ====
section
/-! DEFINITION. The constants of the hardware: the variant table (00_scope.md R8, 42_aead.md R190, R196), the Esch
constants (41_hash.md R163) and the round constants (40_permutation.md R132). They are the spec's values, which it
marks as general knowledge: log entry 10. -/

namespace Sys2Proof

/-- The number of branches. -/
def Variant.nb : Variant → Nat
  | .esch256 => 6
  | .esch384 => 8
  | .schwaemm128_128 => 4
  | .schwaemm192_192 => 6
  | .schwaemm256_128 => 6

/-- The number of rate words. -/
def Variant.R : Variant → Nat
  | .esch256 => 4
  | .esch384 => 4
  | .schwaemm128_128 => 4
  | .schwaemm192_192 => 6
  | .schwaemm256_128 => 8

/-- The number of capacity words. -/
def Variant.CW : Variant → Nat
  | .esch256 => 8
  | .esch384 => 12
  | .schwaemm128_128 => 4
  | .schwaemm192_192 => 6
  | .schwaemm256_128 => 4

/-- The rate in bytes. -/
def Variant.RB (V : Variant) : Nat := 4 * V.R

/-- The reduced step count. -/
def Variant.slim : Variant → Nat
  | .esch256 => 7
  | .esch384 => 8
  | .schwaemm128_128 => 7
  | .schwaemm192_192 => 7
  | .schwaemm256_128 => 7

/-- The full step count. -/
def Variant.big : Variant → Nat
  | .esch256 => 11
  | .esch384 => 12
  | .schwaemm128_128 => 10
  | .schwaemm192_192 => 11
  | .schwaemm256_128 => 11

/-- The digest length in bytes (R2), which HASH_SQUEEZE reads as D (41_hash.md R167). A Schwaemm variant has none. -/
def Variant.digestBytes : Variant → Nat
  | .esch256 => 32
  | .esch384 => 48
  | _ => 0

/-- The hash variants, VARIANT ∈ {0, 1} (60_exceptions.md R243). -/
def Variant.isEsch : Variant → Bool
  | .esch256 | .esch384 => true
  | _ => false

/-- The AEAD variants, VARIANT ∈ {2, 3, 4} (60_exceptions.md R243). -/
def Variant.isSchwaemm : Variant → Bool
  | .schwaemm128_128 | .schwaemm192_192 | .schwaemm256_128 => true
  | _ => false

/-- M1 and M2 of Esch (41_hash.md R163): the last block shorter than 16 bytes, or exactly 16 bytes. -/
def eschConst (full : Bool) : Word := if full then 0x02000000 else 0x01000000

/-- Const(k) of Schwaemm (42_aead.md R196): k = 0, 1, 2, 3 gives A0, A1, M2, M3. -/
def Variant.aeadConst (V : Variant) (k : Nat) : Word :=
  (BitVec.ofNat 32 k ^^^ (1 <<< (V.CW / 2))) <<< 24

/-- The round-constant table RC[0..7] (40_permutation.md R132). -/
def roundConstants : List Word :=
  [0xB7E15162, 0xBF715880, 0x38B4DA56, 0x324E7738, 0xBB1185EB, 0x4F7C7B57, 0xCFBFA1C8, 0xC2B3293D]

/-- RC[k]. -/
def rc (k : Nat) : Word := roundConstants.getD k 0

/-- The identification word "SPK1" (10_state.md R36). -/
def idWord : Word := 0x53504B31

end Sys2Proof
end

