-- ==== Sys2Proof/Machine/State.lean ====
section
/-! DEFINITION. The state of the machine (10_state.md), its agents' pending moves (70_reset_and_hazards.md R284),
the reasons a step can stop, and the state after reset (R50, R280). -/

namespace Sys2Proof.Machine

/-- STATUS.PHASE (10_state.md R42): where the current hash or AEAD operation stands. -/
inductive Phase where
  | idle
  | hEmpty
  | hAbsorb
  | hSqueeze
  | hDone
  | aReady
  | aAd
  | aAdDone
  | aEnc
  | aDec
  | aEncDone
  | aDecDone
  | aDone
deriving DecidableEq, Repr

/-- STATUS.ERRCODE (60_exceptions.md R241). -/
inductive ErrCode where
  | noError
  | illegal
  | len
  | variant
  | sequence
deriving DecidableEq, Repr

/-- A statement of a host program (30_encoding.md R111). An access is a byte offset into the window and a width
in bytes, so that the accesses the block does not checkAll (20_memory.md R74) can be written too. A name that
RD binds is a number. -/
inductive HostStmt where
  /-- `MemWrite(CORE_BASE + off, width, v)`. -/
  | write (off width : Nat) (v : Word)
  /-- `MemRead(CORE_BASE + off, width)`, its result bound to `name`. -/
  | read (off width name : Nat)
  /-- Read STATUS until BUSY = 0. -/
  | poll
  /-- Wait until the output irq is 1 (20_memory.md R85; log entry 4). -/
  | waitIrq
deriving DecidableEq, Repr

/-- Which agent moves (70_reset_and_hazards.md R284): the host by one access, the engine by a completion, or the
platform by driving the input rst (R280). -/
inductive Turn where
  | host
  | engine
  | rst (level : Bool)
deriving DecidableEq, Repr

structure State where
  /-- The permutation state S[0..15] (R30). -/
  S : Vector Word 16
  /-- KEY[0..7] (R33). -/
  key : Vector Word 8
  /-- DIN[0..7] (R34). -/
  din : Vector Word 8
  /-- DOUT[0..7] (R35). -/
  dout : Vector Word 8
  /-- CTRL.IRQEN (R37). -/
  irqen : Bool
  /-- STATUS.BUSY (R39). -/
  busy : Bool
  /-- STATUS.DONE (R40). -/
  done : Bool
  /-- STATUS.ERR (R41). -/
  err : Bool
  /-- STATUS.VERIFIED (R44). -/
  verified : Bool
  /-- STATUS.ERRCODE (R41). -/
  errcode : ErrCode
  /-- STATUS.OVR (R44). -/
  ovr : Bool
  /-- STATUS.PHASE (R42). -/
  phase : Phase
  /-- STATUS.SQZCNT (R43). -/
  sqzcnt : BitVec 4
  /-- CONFIG.VARIANT (R46). -/
  variant : Variant
  /-- PENDING, the accepted command not yet completed (R48). -/
  pending : Option Word
  /-- The level of the input rst (70_reset_and_hazards.md R280). -/
  rst : Bool
  /-- The host program: the statements still to run, first one first (30_encoding.md R111). -/
  host : List HostStmt
  /-- What RD has bound, latest first (30_encoding.md R111). -/
  bound : List (Nat × Word)
  /-- The agents' coming moves; once it is empty the engine moves whenever it can, else the host (log entry 1). -/
  turns : List Turn
  /-- How many free values have been drawn (log entry 3). -/
  draws : Nat
deriving DecidableEq, Repr

/-- Why the machine stops with a fault. -/
inductive Fault where
  /-- Raised by a host access at an offset outside the window's 256 bytes (20_memory.md R70): not an access to
  this block. Safe: the model stops where the platform's bus would answer. -/
  | outsideWindow (off : Nat)
deriving DecidableEq, Repr

/-- Why the model gives a step no meaning. -/
inductive Refusal where
  /-- An instruction whose arm of exec has no meaning yet. No arm raises it. Safe. -/
  | notModelled (mnemonic : String)
  /-- Raised by a host access to the window that is not an aligned 32-bit one (20_memory.md R74, 60_exceptions.md
  R248). Safe: the spec says that the model refuses it. -/
  | accessNotAdmitted (off width : Nat)
deriving DecidableEq, Repr

/-- What a step answers. -/
abbrev Out := Host.Outcome State Fault Refusal

/-- The machine right after reset (10_state.md R50, 70_reset_and_hazards.md R280): every register 0, VARIANT = ESCH256,
PHASE = IDLE, nothing pending; no host program, no turn and no name (log entries 1, 2, 3, 4). -/
def State.reset : State where
  S := Vector.replicate 16 0
  key := Vector.replicate 8 0
  din := Vector.replicate 8 0
  dout := Vector.replicate 8 0
  irqen := false
  busy := false
  done := false
  err := false
  verified := false
  errcode := .noError
  ovr := false
  phase := .idle
  sqzcnt := 0
  variant := .esch256
  pending := none
  rst := false
  host := []
  bound := []
  turns := []
  draws := 0

end Sys2Proof.Machine
end

