-- ==== Sys2Proof/Machine/Flags.lean ====
section
/-! DEFINITION. The codes and words of CTRL, STATUS and CONFIG (10_state.md R37 to R46), the output irq (R49), and the
admission of a command (60_exceptions.md R242 to R245). -/

namespace Sys2Proof.Machine

/-- The value of PHASE (R42). -/
def Phase.code : Phase → BitVec 4
  | .idle => 0
  | .hEmpty => 1
  | .hAbsorb => 2
  | .hSqueeze => 3
  | .hDone => 4
  | .aReady => 5
  | .aAd => 6
  | .aAdDone => 7
  | .aEnc => 8
  | .aDec => 9
  | .aEncDone => 10
  | .aDecDone => 11
  | .aDone => 12

/-- The value of ERRCODE (60_exceptions.md R241). -/
def ErrCode.code : ErrCode → BitVec 3
  | .noError => 0
  | .illegal => 1
  | .len => 2
  | .variant => 3
  | .sequence => 4

/-- The value of VARIANT (30_encoding.md R107). -/
def variantCode : Variant → BitVec 4
  | .esch256 => 0
  | .esch384 => 1
  | .schwaemm128_128 => 2
  | .schwaemm192_192 => 3
  | .schwaemm256_128 => 4

/-- The variant of a code; 5 to 15 are reserved (30_encoding.md R107). -/
def variantOf (code : BitVec 4) : Option Variant :=
  match code.toNat with
  | 0 => some .esch256
  | 1 => some .esch384
  | 2 => some .schwaemm128_128
  | 3 => some .schwaemm192_192
  | 4 => some .schwaemm256_128
  | _ => none

/-- STATUS as read (R38), most significant field first: 0, SQZCNT, PHASE, OVR, ERRCODE, VERIFIED, ERR, DONE, BUSY. -/
def statusWord (s : State) : Word :=
  (0 : BitVec 16) ++ s.sqzcnt ++ s.phase.code ++ BitVec.ofBool s.ovr ++ s.errcode.code ++
    BitVec.ofBool s.verified ++ BitVec.ofBool s.err ++ BitVec.ofBool s.done ++ BitVec.ofBool s.busy

/-- CTRL as read (R37). -/
def ctrlWord (s : State) : Word := (0 : BitVec 31) ++ BitVec.ofBool s.irqen

/-- CONFIG as read (R46). -/
def configWord (s : State) : Word := (0 : BitVec 28) ++ variantCode s.variant

/-- The output irq (R49, 60_exceptions.md R249). -/
def irq (s : State) : Bool := s.done && s.irqen

/-- A host write of STATUS (R38, R40, R41, R44): bits 1, 2 and 7 clear DONE, ERR with ERRCODE, and OVR. -/
def writeStatus (v : Word) (s : State) : State :=
  { s with
    done := s.done && !v.getLsbD 1
    err := s.err && !v.getLsbD 2
    errcode := if v.getLsbD 2 then .noError else s.errcode
    ovr := s.ovr && !v.getLsbD 7 }

/-- A host write of CONFIG while BUSY = 0 (R46). -/
def writeConfig (v : Word) (s : State) : State :=
  match (if v.extractLsb' 4 28 = 0 then variantOf (v.extractLsb' 0 4) else none) with
  | some V => { s with variant := V, phase := .idle, sqzcnt := 0 }
  | none => { s with err := true, errcode := .variant }

/-- The code of a legal word's check (60_exceptions.md R242): VARIANT, then SEQUENCE, then LEN. -/
def checkAll (variantOk phaseOk lenOk : Bool) : ErrCode :=
  if !variantOk then .variant
  else if !phaseOk then .sequence
  else if !lenOk then .len
  else .noError

/-- LEN of HASH_LAST (60_exceptions.md R245): 1 to 16, or 0 when PHASE = H_EMPTY. -/
def hashLenOk (phase : Phase) (len : BitVec 6) : Bool :=
  (1 ≤ len.toNat && len.toNat ≤ 16) || (len.toNat == 0 && phase == .hEmpty)

/-- LEN of the AEAD last-block commands (60_exceptions.md R245): 1 to RB. -/
def aeadLenOk (V : Variant) (len : BitVec 6) : Bool := 1 ≤ len.toNat && len.toNat ≤ V.RB

end Sys2Proof.Machine
end

