-- ==== Sys2Proof/Machine/Operands.lean ====
section
/-! DEFINITION. Word files, the word operators, and the byte strings and padded blocks commands read
(00_scope.md R11, R13; 20_memory.md R80; 41_hash.md R161; 30_encoding.md R103). -/

namespace Sys2Proof.Machine

/-! Word files: S, KEY, DIN, DOUT. -/

/-- Word `i` of a file. -/
def getW {n : Nat} (v : Vector Word n) (i : Nat) : Word := v.toList.getD i 0

/-- `v[i] <- x`. -/
def setW {n : Nat} (v : Vector Word n) (i : Nat) (x : Word) : Vector Word n := v.setIfInBounds i x

/-- `for i in 0..count-1: v[lo+i] <- f i`, where `f` reads values from before the loop. -/
def fill {n : Nat} (v : Vector Word n) (lo count : Nat) (f : Nat → Word) : Vector Word n :=
  Vector.ofFn fun i : Fin n => if lo ≤ i.val ∧ i.val < lo + count then f (i.val - lo) else getW v i.val

/-- A file of `n` words, word `i` being `f i`. -/
def fileOf (n : Nat) (f : Nat → Word) : Vector Word n := Vector.ofFn fun i : Fin n => f i.val

/-- A file of zeros. -/
def zeros (n : Nat) : Vector Word n := Vector.replicate n 0

/-- `settleFile v k` is `k v`; evaluation computes every word of `v` first. -/
def settleFile {α : Type} (v : Vector Word 16) (k : Vector Word 16 → α) : α :=
  settleList v.toList fun ws => k (fileOf 16 fun i => ws.getD i 0)

/-! Word operators (R11). -/

/-- `rotr(a, n)`, rotation right by `n`, 0 ≤ n ≤ 31. -/
def rotr (a : Word) (n : Nat) : Word := (a >>> n) ||| (a <<< (32 - n))

/-- XOR of all words of a list. -/
def xorAll (ws : List Word) : Word := ws.foldl (fun a w => a ^^^ w) 0

/-! Byte strings (R13, R80): little-endian in each word. -/

/-- The four bytes of a word, bits 7:0 first. -/
def wordBytes (w : Word) : List Byte :=
  [w.extractLsb' 0 8, w.extractLsb' 8 8, w.extractLsb' 16 8, w.extractLsb' 24 8]

/-- `bytes(w[0..k-1])`. -/
def bytesOf (ws : List Word) : List Byte := ws.flatMap wordBytes

/-- The word of four bytes, the first one in bits 7:0. -/
def wordOfBytes (b0 b1 b2 b3 : Byte) : Word :=
  b0.setWidth 32 ||| b1.setWidth 32 <<< 8 ||| b2.setWidth 32 <<< 16 ||| b3.setWidth 32 <<< 24

/-- Word `i` of `words_k(b)`: bytes beyond the string are 0. -/
def wordAt (b : List Byte) (i : Nat) : Word :=
  wordOfBytes (b.getD (4 * i) 0) (b.getD (4 * i + 1) 0) (b.getD (4 * i + 2) 0) (b.getD (4 * i + 3) 0)

/-- `words_k(b)`, for a string of at most `4k` bytes. -/
def wordsOf (k : Nat) (b : List Byte) : List Word := (List.range k).map (wordAt b)

/-- Bytewise XOR of two strings, as long as the shorter one. -/
def xorBytes (a b : List Byte) : List Byte := List.zipWith (fun x y => x ^^^ y) a b

/-- `Pad(b, RB)` (41_hash.md R161). -/
def pad (b : List Byte) (rb : Nat) : List Byte :=
  if b.length = rb then b else b ++ 0x80 :: List.replicate (rb - b.length - 1) 0

/-- The first `n` bytes of DIN, which a command with LEN = n takes (10_state.md R34). -/
def blockBytes (n : Nat) (din : Vector Word 8) : List Byte := (bytesOf din.toList).take n

/-- The words `DIN[0..k-1]` of a full block. -/
def blockWords (k : Nat) (din : Vector Word 8) : List Word := din.toList.take k

/-- The branch count of an NB code (30_encoding.md R103); NB = 3 has none. -/
def branchCount (nb : BitVec 2) : Option Nat :=
  match nb.toNat with
  | 0 => some 4
  | 1 => some 6
  | 2 => some 8
  | _ => none

end Sys2Proof.Machine
end

