-- ==== Sys2Proof/Machine/Ops.lean ====
section
/-! DEFINITION. The shared operations of the engine and the window: acceptance, completion, refusal, the dropped write,
the free value, and reset. The block takes no trap (60_exceptions.md R251): the refusal of a command (R246) is its one
record of an error, and there is nothing to return from (R252). -/

namespace Sys2Proof.Machine

/-- Acceptance of a command word (20_memory.md R77). -/
def accept (w : Word) (s : State) : State :=
  { s with pending := some w, busy := true, done := false }

/-- The completion fields (20_memory.md R78): PENDING <- none, BUSY <- 0, DONE <- 1. -/
def complete (s : State) : State :=
  { s with pending := none, busy := false, done := true }

/-- The effects of a refused command (60_exceptions.md R246). -/
def refuse (code : ErrCode) (s : State) : State :=
  complete { s with err := true, errcode := code }

/-- The completion step of a decoded command (20_memory.md R78): `code` is its check, `effect` its Execute. -/
def performCmd (code : ErrCode) (effect : State → State) (s : State) : Out :=
  if code = .noError then .next (complete (effect s)) else .next (refuse code s)

/-- A write dropped while BUSY = 1 (20_memory.md R79). -/
def dropWrite (s : State) : State := { s with ovr := true }

/-- A read that returns any value (20_memory.md R79, 70_reset_and_hazards.md R280): a free value, log entry 3. -/
def drawAny (s : State) : Word × State :=
  (Config.freeWord s.draws, { s with draws := s.draws + 1 })

/-- Every register of the block at its reset value (10_state.md R50). The host, its names and the coming turns are
not the block's. -/
def resetBlock (s : State) : State :=
  { State.reset with host := s.host, bound := s.bound, turns := s.turns, draws := s.draws }

/-- The input rst takes a level (70_reset_and_hazards.md R280): its assertion abandons the command in flight, its
deassertion leaves every register at its reset value; log entry 5. -/
def driveRst (level : Bool) (s : State) : State :=
  if level then { s with rst := true, pending := none, busy := false }
  else if s.rst then resetBlock s
  else s

end Sys2Proof.Machine
end

