-- ==== Sys2Proof/Machine/Permutation.lean ====
section
/-! DEFINITION. The Sparkle permutation (40_permutation.md R130 to R138). -/

namespace Sys2Proof.Machine

/-- The word function ℓ (R131). -/
def ell (a : Word) : Word := rotr (a ^^^ (a <<< 16)) 16

/-- One line of Alzette (R133): `x <- x + rotr(y, r); y <- y XOR rotr(x, s); x <- x XOR c`. -/
def alzetteLine (r s : Nat) (c : Word) (p : Word × Word) : Word × Word :=
  let x := p.1 + rotr p.2 r
  let y := p.2 ^^^ rotr x s
  (x ^^^ c, y)

/-- The ARX box Alzette on one branch (R133). -/
def alzette (x y c : Word) : Word × Word :=
  alzetteLine 24 16 c (alzetteLine 0 31 c (alzetteLine 17 17 c (alzetteLine 31 24 c (x, y))))

/-- Step-constant addition of step `i` (R134). -/
def stepConstants (i : Nat) (S : Vector Word 16) : Vector Word 16 :=
  let S := setW S 1 (getW S 1 ^^^ rc (i % 8))
  setW S 3 (getW S 3 ^^^ BitVec.ofNat 32 i)

/-- Alzette on branch `j` with the constant RC[j]. -/
def arxBranch (S : Vector Word 16) (j : Nat) : Vector Word 16 :=
  let p := alzette (getW S (2 * j)) (getW S (2 * j + 1)) (rc j)
  setW (setW S (2 * j) p.1) (2 * j + 1) p.2

/-- The ARX layer (R135 step 2): every branch in turn. -/
def arxLayer (nb : Nat) (S : Vector Word 16) : Vector Word 16 := (List.range nb).foldl arxBranch S

/-- Branch `k` of the linear layer (R136): the new left branch `k` and the new right branch `k`, read from `old`. -/
def linearBranch (h : Nat) (tx ty : Word) (old S : Vector Word 16) (k : Nat) : Vector Word 16 :=
  let m := (k + 1) % h
  let S := setW S (2 * k) (getW old (2 * (h + m)) ^^^ getW old (2 * m) ^^^ ty)
  let S := setW S (2 * k + 1) (getW old (2 * (h + m) + 1) ^^^ getW old (2 * m + 1) ^^^ tx)
  let S := setW S (2 * (h + k)) (getW old (2 * k))
  setW S (2 * (h + k) + 1) (getW old (2 * k + 1))

/-- The linear layer (R136). -/
def linearLayer (nb : Nat) (old : Vector Word 16) : Vector Word 16 :=
  let h := nb / 2
  let tx := ell (xorAll ((List.range h).map fun j => getW old (2 * j)))
  let ty := ell (xorAll ((List.range h).map fun j => getW old (2 * j + 1)))
  (List.range h).foldl (linearBranch h tx ty old) old

/-- Step `i` (R135): step constants, ARX layer, linear layer. -/
def sparkleStep (nb i : Nat) (S : Vector Word 16) : Vector Word 16 :=
  linearLayer nb (arxLayer nb (stepConstants i S))

/-- `count` steps from step `i` on. The words are settled between steps, which changes no value. -/
def sparkleFrom (nb : Nat) : Nat → Nat → Vector Word 16 → Vector Word 16
  | 0, _, S => S
  | count + 1, i, S => settleFile (sparkleStep nb i S) (sparkleFrom nb count (i + 1))

/-- `Sparkle(nb, steps)` on S[0..2nb-1] (R135); the step counter starts at 0 in every call. -/
def sparkle (nb steps : Nat) (S : Vector Word 16) : Vector Word 16 := sparkleFrom nb steps 0 S

end Sys2Proof.Machine
end

