-- ==== Sys2Proof/Machine/Aead.lean ====
section
/-! DEFINITION. The Schwaemm duplex and its commands (42_aead.md R190 to R211). -/

namespace Sys2Proof.Machine

/-- Word `i` of `FeistelSwap(S[0..R-1])` (R191), with halves of `R/2` words. -/
def feistelWord (R : Nat) (S : Vector Word 16) (i : Nat) : Word :=
  let h := R / 2
  if i < h then getW S (h + i) else getW S i ^^^ getW S (i - h)

/-- `Absorb(P)` with whitening (R192): the capacity is read, not changed. -/
def absorb (V : Variant) (P : List Word) (S : Vector Word 16) : Vector Word 16 :=
  fill S 0 V.R fun i => feistelWord V.R S i ^^^ P.getD i 0 ^^^ getW S (V.R + i % V.CW)

/-- Injection of Const(k) into the last capacity word S[2nb-1] (R196). -/
def injectConst (V : Variant) (k : Nat) (S : Vector Word 16) : Vector Word 16 :=
  setW S (2 * V.nb - 1) (getW S (2 * V.nb - 1) ^^^ V.aeadConst k)

/-- S after the constant of a last AD block of `n` bytes: A0 if short, A1 if full (R195, R196). -/
def markLastAd (V : Variant) (n : Nat) (S : Vector Word 16) : Vector Word 16 :=
  injectConst V (if n < V.RB then 0 else 1) S

/-- S after the constant of a last data block of `n` bytes: M2 if short, M3 if full (R196, R201, R205). -/
def markLastData (V : Variant) (n : Nat) (S : Vector Word 16) : Vector Word 16 :=
  injectConst V (if n < V.RB then 2 else 3) S

/-- The output of a data block (R199): the rate XOR the input, as long as the input. -/
def dataOut (V : Variant) (S : Vector Word 16) (input : List Byte) : List Byte :=
  (xorBytes (bytesOf (S.toList.take V.R)) input).take input.length

/-- DOUT holding the string `out`, zero beyond it (R199). -/
def doutOf (out : List Byte) : Vector Word 8 := fileOf 8 fun i => (wordsOf 8 out).getD i 0

/-- The words `S[i] XOR DIN[i]` of an interior block (R200, R204), i < R. -/
def dataWords (V : Variant) (S : Vector Word 16) (din : Vector Word 8) : List Word :=
  (List.range V.R).map fun i => getW S i ^^^ getW din i

/-- DOUT holding the words `ws`, zero beyond them. -/
def doutOfWords (ws : List Word) : Vector Word 8 := fileOf 8 fun i => ws.getD i 0

/-- An interior AD, plaintext or recovered plaintext block on S (R194, R200, R204). -/
def absorbBlock (V : Variant) (P : List Word) (S : Vector Word 16) : Vector Word 16 :=
  sparkle V.nb V.slim (absorb V P S)

/-- A last block `b`, padded, on S, after its constant (R195, R201, R205). -/
def absorbLastBlock (V : Variant) (b : List Byte) (S : Vector Word 16) : Vector Word 16 :=
  sparkle V.nb V.big (absorb V (wordsOf V.R (pad b V.RB)) S)

/-- S with the nonce in the rate, the key in the capacity and the rest 0 (R193). -/
def loadNonceKey (V : Variant) (nonce key : Vector Word 8) (S : Vector Word 16) : Vector Word 16 :=
  let S := fill S 0 V.R (getW nonce)
  let S := fill S V.R V.CW (getW key)
  fill S (V.R + V.CW) (16 - (V.R + V.CW)) fun _ => 0

/-- The key XORed into the capacity (R207, R209, R211). -/
def xorKey (V : Variant) (key : Vector Word 8) (S : Vector Word 16) : Vector Word 16 :=
  fill S V.R V.CW fun i => getW S (V.R + i) ^^^ getW key i

/-- The accumulated differences of the tag in the capacity and the supplied tag (R210). -/
def tagDiff (V : Variant) (S : Vector Word 16) (tag : Vector Word 8) : Word :=
  (List.range V.CW).foldl (fun diff i => diff ||| (getW S (V.R + i) ^^^ getW tag i)) 0

/-- Execute(AEAD_INIT) (R193). -/
def aeadInitEffect (s : State) : State :=
  { s with
    S := sparkle s.variant.nb s.variant.big (loadNonceKey s.variant s.din s.key s.S)
    dout := zeros 8
    verified := false
    phase := .aReady }

/-- AEAD_INIT (R193): admitted in every phase. -/
def execAeadInit (s : State) : Out :=
  performCmd (checkAll s.variant.isSchwaemm true true) aeadInitEffect s

/-- AEAD_AD (R194). -/
def execAeadAd (s : State) : Out :=
  performCmd (checkAll s.variant.isSchwaemm (s.phase ∈ [.aReady, .aAd]) true)
    (fun s =>
      { s with
        S := absorbBlock s.variant (blockWords s.variant.R s.din) s.S
        phase := .aAd }) s

/-- AEAD_AD_LAST (R195). -/
def execAeadAdLast (len : BitVec 6) (s : State) : Out :=
  performCmd
    (checkAll s.variant.isSchwaemm (s.phase ∈ [.aReady, .aAd]) (aeadLenOk s.variant len))
    (fun s =>
      { s with
        S := absorbLastBlock s.variant (blockBytes len.toNat s.din) (markLastAd s.variant len.toNat s.S)
        phase := .aAdDone }) s

/-- Execute(AEAD_ENC) (R200). -/
def aeadEncEffect (s : State) : State :=
  { s with
    dout := doutOfWords (dataWords s.variant s.S s.din)
    S := absorbBlock s.variant (blockWords s.variant.R s.din) s.S
    phase := .aEnc }

/-- AEAD_ENC (R200). -/
def execAeadEnc (s : State) : Out :=
  performCmd (checkAll s.variant.isSchwaemm (s.phase ∈ [.aReady, .aAdDone, .aEnc]) true) aeadEncEffect s

/-- Execute(AEAD_ENC_LAST) (R201). -/
def aeadEncLastEffect (len : BitVec 6) (s : State) : State :=
  let S := markLastData s.variant len.toNat s.S
  let M := blockBytes len.toNat s.din
  { s with
    dout := doutOf (dataOut s.variant S M)
    S := absorbLastBlock s.variant M S
    phase := .aEncDone }

/-- AEAD_ENC_LAST (R201). -/
def execAeadEncLast (len : BitVec 6) (s : State) : Out :=
  performCmd
    (checkAll s.variant.isSchwaemm (s.phase ∈ [.aReady, .aAdDone, .aEnc]) (aeadLenOk s.variant len))
    (aeadEncLastEffect len) s

/-- Execute(AEAD_DEC) (R204): the recovered plaintext is absorbed. -/
def aeadDecEffect (s : State) : State :=
  let M := dataWords s.variant s.S s.din
  { s with
    dout := doutOfWords M
    S := absorbBlock s.variant M s.S
    phase := .aDec }

/-- AEAD_DEC (R204). -/
def execAeadDec (s : State) : Out :=
  performCmd (checkAll s.variant.isSchwaemm (s.phase ∈ [.aReady, .aAdDone, .aDec]) true) aeadDecEffect s

/-- Execute(AEAD_DEC_LAST) (R205): the recovered plaintext, padded, is absorbed (R202). -/
def aeadDecLastEffect (len : BitVec 6) (s : State) : State :=
  let S := markLastData s.variant len.toNat s.S
  let M := dataOut s.variant S (blockBytes len.toNat s.din)
  { s with
    dout := doutOf M
    S := absorbLastBlock s.variant M S
    phase := .aDecDone }

/-- AEAD_DEC_LAST (R205). -/
def execAeadDecLast (len : BitVec 6) (s : State) : Out :=
  performCmd
    (checkAll s.variant.isSchwaemm (s.phase ∈ [.aReady, .aAdDone, .aDec]) (aeadLenOk s.variant len))
    (aeadDecLastEffect len) s

/-- Execute(AEAD_TAG) (R209): the key XOR is kept in S. -/
def aeadTagEffect (s : State) : State :=
  let S := xorKey s.variant s.key s.S
  { s with
    S := S
    dout := fill (zeros 8) 0 s.variant.CW fun i => getW S (s.variant.R + i)
    phase := .aDone }

/-- AEAD_TAG (R209). -/
def execAeadTag (s : State) : Out :=
  performCmd (checkAll s.variant.isSchwaemm (s.phase ∈ [.aReady, .aAdDone, .aEncDone]) true) aeadTagEffect s

/-- Execute(AEAD_VERIFY) (R211): DOUT keeps the last plaintext block. -/
def aeadVerifyEffect (s : State) : State :=
  let S := xorKey s.variant s.key s.S
  { s with
    S := S
    verified := tagDiff s.variant S s.din == 0
    phase := .aDone }

/-- AEAD_VERIFY (R211). -/
def execAeadVerify (s : State) : Out :=
  performCmd (checkAll s.variant.isSchwaemm (s.phase ∈ [.aReady, .aAdDone, .aDecDone]) true) aeadVerifyEffect s

end Sys2Proof.Machine
end

