-- ==== Sys2Proof/Machine/Engine.lean ====
section
/-! DEFINITION. The engine commands NOP, CLEAR and PERM (40_permutation.md R139 to R141). -/

namespace Sys2Proof.Machine

/-- NOP (R139): admitted in every variant and phase. -/
def execNop (s : State) : Out := performCmd .noError (fun s => s) s

/-- Execute(CLEAR) (R140). -/
def clearEffect (s : State) : State :=
  { s with
    S := zeros 16
    key := zeros 8
    din := zeros 8
    dout := zeros 8
    verified := false
    phase := .idle
    sqzcnt := 0 }

/-- CLEAR (R140): admitted in every variant and phase. -/
def execClear (s : State) : Out := performCmd .noError clearEffect s

/-- PERM (R141): admitted in every variant and phase; NB = 3 is ILLEGAL. -/
def execPerm (nb : BitVec 2) (steps : BitVec 5) (s : State) : Out :=
  match branchCount nb with
  | some b => performCmd .noError (fun s => { s with S := sparkle b steps.toNat s.S }) s
  | none => performCmd .illegal (fun s => s) s

end Sys2Proof.Machine
end

