-- ==== Sys2Proof/Machine/Hash.lean ====
section
/-! DEFINITION. The Esch sponge and its commands (41_hash.md R160 to R167). -/

namespace Sys2Proof.Machine

/-- One branch of the message injection: `px`, `py` are the block's words for the first two branches, else 0. -/
def injectBranch (P : List Word) (tx ty : Word) (S : Vector Word 16) (j : Nat) : Vector Word 16 :=
  let px := if j < 2 then P.getD (2 * j) 0 else 0
  let py := if j < 2 then P.getD (2 * j + 1) 0 else 0
  let S := setW S (2 * j) (getW S (2 * j) ^^^ px ^^^ ty)
  setW S (2 * j + 1) (getW S (2 * j + 1) ^^^ py ^^^ tx)

/-- `Inject(nb, P)` (R162), for a block of four words. -/
def inject (nb : Nat) (P : List Word) (S : Vector Word 16) : Vector Word 16 :=
  let tx := ell (P.getD 0 0 ^^^ P.getD 2 0)
  let ty := ell (P.getD 1 0 ^^^ P.getD 3 0)
  (List.range (nb / 2)).foldl (injectBranch P tx ty) S

/-- The last-block constant (R163): `S[nb-1] <- S[nb-1] XOR (M1 if n < 16 else M2)`. -/
def markLastHash (nb n : Nat) (S : Vector Word 16) : Vector Word 16 :=
  setW S (nb - 1) (getW S (nb - 1) ^^^ eschConst (16 ≤ n))

/-- An interior block on S (R165). -/
def absorbHash (V : Variant) (P : List Word) (S : Vector Word 16) : Vector Word 16 :=
  sparkle V.nb V.slim (inject V.nb P S)

/-- The last block `b` on S (R166). -/
def absorbLastHash (V : Variant) (b : List Byte) (S : Vector Word 16) : Vector Word 16 :=
  sparkle V.nb V.big (inject V.nb (wordsOf 4 (pad b 16)) (markLastHash V.nb b.length S))

/-- HASH_INIT (R164): admitted in every phase. -/
def execHashInit (s : State) : Out :=
  performCmd (checkAll s.variant.isEsch true true)
    (fun s => { s with S := zeros 16, dout := zeros 8, phase := .hEmpty, sqzcnt := 0 }) s

/-- HASH_ABSORB (R165). -/
def execHashAbsorb (s : State) : Out :=
  performCmd (checkAll s.variant.isEsch (s.phase ∈ [.hEmpty, .hAbsorb]) true)
    (fun s => { s with S := absorbHash s.variant (blockWords 4 s.din) s.S, phase := .hAbsorb }) s

/-- HASH_LAST (R166). -/
def execHashLast (len : BitVec 6) (s : State) : Out :=
  performCmd (checkAll s.variant.isEsch (s.phase ∈ [.hEmpty, .hAbsorb]) (hashLenOk s.phase len))
    (fun s =>
      { s with
        S := absorbLastHash s.variant (blockBytes len.toNat s.din) s.S
        phase := .hSqueeze
        sqzcnt := 0 }) s

/-- Execute(HASH_SQUEEZE) (R167). -/
def squeezeEffect (s : State) : State :=
  let S := if 0 < s.sqzcnt.toNat then sparkle s.variant.nb s.variant.slim s.S else s.S
  let count := s.sqzcnt + 1
  { s with
    S := S
    dout := fill (zeros 8) 0 4 (getW S)
    sqzcnt := count
    phase := if count.toNat = s.variant.digestBytes / 16 then .hDone else s.phase }

/-- HASH_SQUEEZE (R167). -/
def execHashSqueeze (s : State) : Out :=
  performCmd (checkAll s.variant.isEsch (s.phase ∈ [.hSqueeze]) true) squeezeEffect s

end Sys2Proof.Machine
end

