-- ==== Sys2Proof/Machine/Dispatch.lean ====
section
/-! DEFINITION. The completion step of a decoded command (20_memory.md R78): one arm per constructor. -/

namespace Sys2Proof.Machine

def exec (i : Instr) (s : State) : Host.Outcome State Fault Refusal :=
  match i with
  | .nop => Sys2Proof.Machine.execNop s
  | .clear => Sys2Proof.Machine.execClear s
  | .perm nb steps => Sys2Proof.Machine.execPerm nb steps s
  | .hashInit => Sys2Proof.Machine.execHashInit s
  | .hashAbsorb => Sys2Proof.Machine.execHashAbsorb s
  | .hashLast len => Sys2Proof.Machine.execHashLast len s
  | .hashSqueeze => Sys2Proof.Machine.execHashSqueeze s
  | .aeadInit => Sys2Proof.Machine.execAeadInit s
  | .aeadAd => Sys2Proof.Machine.execAeadAd s
  | .aeadAdLast len => Sys2Proof.Machine.execAeadAdLast len s
  | .aeadEnc => Sys2Proof.Machine.execAeadEnc s
  | .aeadEncLast len => Sys2Proof.Machine.execAeadEncLast len s
  | .aeadDec => Sys2Proof.Machine.execAeadDec s
  | .aeadDecLast len => Sys2Proof.Machine.execAeadDecLast len s
  | .aeadTag => Sys2Proof.Machine.execAeadTag s
  | .aeadVerify => Sys2Proof.Machine.execAeadVerify s

end Sys2Proof.Machine
end

