-- ==== Sys2Proof/Machine/Window.lean ====
section
/-! DEFINITION. The register window (20_memory.md R70 to R79): the register map, reads, writes, and which accesses are
admitted. -/

namespace Sys2Proof.Machine

/-- A word of the window (20_memory.md R72). -/
inductive Reg where
  | id
  | ctrl
  | status
  | config
  | cmd
  | key (i : Fin 8)
  | din (i : Fin 8)
  | dout (i : Fin 8)
  | state (i : Fin 16)
  /-- A reserved offset (R73). -/
  | reserved
deriving DecidableEq, Repr

/-- The register at a byte offset (R72). -/
def regAt (off : Nat) : Reg :=
  if off < 0x020 then
    match off with
    | 0x000 => .id
    | 0x004 => .ctrl
    | 0x008 => .status
    | 0x00C => .config
    | 0x010 => .cmd
    | _ => .reserved
  else if off < 0x040 then .key (Fin.ofNat 8 ((off - 0x020) / 4))
  else if off < 0x060 then .din (Fin.ofNat 8 ((off - 0x040) / 4))
  else if off < 0x080 then .dout (Fin.ofNat 8 ((off - 0x060) / 4))
  else if off < 0x0C0 then .state (Fin.ofNat 16 ((off - 0x080) / 4))
  else .reserved

/-- The byte offset of a register (R72); for `reserved`, the first reserved offset. -/
def regOffset : Reg → Nat
  | .id => 0x000
  | .ctrl => 0x004
  | .status => 0x008
  | .config => 0x00C
  | .cmd => 0x010
  | .key i => 0x020 + 4 * i.val
  | .din i => 0x040 + 4 * i.val
  | .dout i => 0x060 + 4 * i.val
  | .state i => 0x080 + 4 * i.val
  | .reserved => 0x014

/-- The value of a register (10_state.md R51, column "read while idle"). -/
def regValue (r : Reg) (s : State) : Word :=
  match r with
  | .id => idWord
  | .ctrl => ctrlWord s
  | .status => statusWord s
  | .config => configWord s
  | .cmd => 0
  | .key i => s.key[i]
  | .din i => s.din[i]
  | .dout i => s.dout[i]
  | .state i => s.S[i]
  | .reserved => 0

/-- A read of a register (R75, R79; 10_state.md R51): DOUT and STATE return any value while BUSY = 1, and every
register does while rst is asserted (70_reset_and_hazards.md R280). Only the model's own count of free values changes. -/
def readReg (r : Reg) (s : State) : Word × State :=
  if s.rst then drawAny s
  else
    match r with
    | .dout _ | .state _ => if s.busy then drawAny s else (regValue r s, s)
    | _ => (regValue r s, s)

/-- A write of a register (R76 to R79; 10_state.md R51). While rst is asserted a write has no effect (70_reset_and_hazards.md
R280). -/
def writeReg (r : Reg) (v : Word) (s : State) : State :=
  if s.rst then s
  else
    match r with
    | .id | .dout _ | .reserved => s
    | .ctrl => { s with irqen := v.getLsbD 0 }
    | .status => writeStatus v s
    | .config => if s.busy then dropWrite s else writeConfig v s
    | .cmd => if s.busy then dropWrite s else accept v s
    | .key i => if s.busy then dropWrite s else { s with key := s.key.set i v }
    | .din i => if s.busy then dropWrite s else { s with din := s.din.set i v }
    | .state i => if s.busy then dropWrite s else { s with S := s.S.set i v }

/-- What an access at an offset and width meets: a register, or the reason the model stops (R70, R74, R248). -/
def window (off width : Nat) (k : Reg → Out) : Out :=
  if 0x100 ≤ off then .fault (.outsideWindow off)
  else if off % 4 ≠ 0 ∨ width ≠ 4 then .refused (.accessNotAdmitted off width)
  else k (regAt off)

/-- `MemRead(CORE_BASE + off, width)`, the value given to `k` (00_scope.md R14). -/
def hostRead (off width : Nat) (k : Word → State → Out) (s : State) : Out :=
  window off width fun r => k (readReg r s).1 (readReg r s).2

/-- `MemWrite(CORE_BASE + off, width, v)` (00_scope.md R14). -/
def hostWrite (off width : Nat) (v : Word) (s : State) : Out :=
  window off width fun r => .next (writeReg r v s)

/-- MemRead at a bus address: the byte offset is `addr - CORE_BASE` (00_scope.md R14). Below CORE_BASE there is no
window. -/
def memRead (addr width : Nat) (k : Word → State → Out) (s : State) : Out :=
  if Config.coreBase ≤ addr then hostRead (addr - Config.coreBase) width k s
  else .fault (.outsideWindow addr)

/-- MemWrite at a bus address. -/
def memWrite (addr width : Nat) (v : Word) (s : State) : Out :=
  if Config.coreBase ≤ addr then hostWrite (addr - Config.coreBase) width v s
  else .fault (.outsideWindow addr)

end Sys2Proof.Machine
end

