-- ==== Sys2Proof/Machine/Agents.lean ====
section
/-! DEFINITION. The agents and whose move it is (70_reset_and_hazards.md R284): the engine's completion step, the host's
next statement, and the input rst. -/

namespace Sys2Proof.Machine

/-- The engine performs the pending word (20_memory.md R78): an illegal word is refused (60_exceptions.md R242), a
command runs its meaning. With BUSY = 1 PENDING is valid (10_state.md R48); with nothing pending the step changes nothing
(log entry 12). -/
def engineStep (s : State) : Out :=
  match s.pending with
  | none => .next s
  | some w =>
    match decode w with
    | .ok i => exec i s
    | .error _ => .next (refuse .illegal s)

/-- The engine's step is enabled exactly when BUSY = 1 (R284); rst abandons what is in flight (R280). -/
def engineEnabled (s : State) : Bool := s.busy && !s.rst

/-- A move of the engine: its step where enabled, nothing otherwise (60_exceptions.md R262). -/
def engineTurn (s : State) : Out := if engineEnabled s then engineStep s else .next s

/-- The host's next statement (30_encoding.md R111). POLL makes one read of STATUS a move. -/
def hostTurn (s : State) : Out :=
  match s.host with
  | [] => .next s
  | .write off width v :: rest => hostWrite off width v { s with host := rest }
  | .read off width name :: rest =>
    hostRead off width (fun v t => .next { t with bound := (name, v) :: t.bound }) { s with host := rest }
  | .poll :: rest =>
    hostRead (regOffset .status) 4
      (fun v t => if v.getLsbD 0 then .next t else .next { t with host := rest }) s
  | .waitIrq :: rest => if irq s then .next { s with host := rest } else .next s

/-- One move: the next turn's agent; once no turn is left, the engine if it can move, else the host (log entry 1). -/
def takeTurn (s : State) : Out :=
  match s.turns with
  | [] => if engineEnabled s then engineTurn s else hostTurn s
  | .host :: rest => hostTurn { s with turns := rest }
  | .engine :: rest => engineTurn { s with turns := rest }
  | .rst level :: rest => .next (driveRst level { s with turns := rest })

/-- A command word as pending, with the engine to move next: the state after its CMD write (20_memory.md R77), which
is how a command comes to run (log entry 2). -/
def placeCommand (w : Word) (s : State) : State :=
  { accept w s with rst := false, turns := .engine :: s.turns }

end Sys2Proof.Machine
end

