-- ==== Sys2Proof/Machine/Assembler.lean ====
section
/-! DEFINITION. The assembler syntax of commands (30_encoding.md R110): a mnemonic with its fields as `name=value`. -/

namespace Sys2Proof.Machine

/-- A command line: the mnemonic, and each field if it is given. -/
structure AsmLine where
  mnemonic : String
  nb : Option Nat := none
  steps : Option Nat := none
  len : Option Nat := none
deriving DecidableEq, Repr

/-- `OP | LEN<<8 | NBcode<<14 | STEPS<<16` (R110). -/
def asmWord (op len nbCode steps : Nat) : Word :=
  BitVec.ofNat 32 (op ||| len <<< 8 ||| nbCode <<< 14 ||| steps <<< 16)

/-- The NB code of a branch count (R103, R110): 8 branches have code 2, so that `PERM nb=8, steps=11` is 0x000B8002.
DESIGN CHOICE: 90_conflicts.md C10 calls that word 0x000BC002, which has NB = 3 and which R113 and 95_test_vectors.md E2
call illegal; the model follows R103 and R113 (log entry 15). -/
def nbCodeOf (nb : Nat) : Option Nat :=
  match nb with
  | 4 => some 0
  | 6 => some 1
  | 8 => some 2
  | _ => none

/-- The OP values of the commands that use no field (R106). -/
def plainOp (mnemonic : String) : Option Nat :=
  match mnemonic with
  | "NOP" => some 0x00
  | "CLEAR" => some 0x01
  | "HASH_INIT" => some 0x08
  | "HASH_ABSORB" => some 0x09
  | "HASH_SQUEEZE" => some 0x0B
  | "AEAD_INIT" => some 0x10
  | "AEAD_AD" => some 0x11
  | "AEAD_ENC" => some 0x13
  | "AEAD_DEC" => some 0x15
  | "AEAD_TAG" => some 0x17
  | "AEAD_VERIFY" => some 0x18
  | _ => none

/-- The OP values of the four last-block commands, which use LEN (R102, R106). -/
def lastOp (mnemonic : String) : Option Nat :=
  match mnemonic with
  | "HASH_LAST" => some 0x0A
  | "AEAD_AD_LAST" => some 0x12
  | "AEAD_ENC_LAST" => some 0x14
  | "AEAD_DEC_LAST" => some 0x16
  | _ => none

/-- The word of a command line (R110), `none` for an assembly error: an unknown mnemonic, a field the command uses left
out, a field it does not use given, or a value the field cannot hold (the last is the model's reading: DESIGN CHOICE, log
entry 17). -/
def assemble (l : AsmLine) : Option Word :=
  match l.nb, l.steps, l.len with
  | none, none, none => (plainOp l.mnemonic).map fun op => asmWord op 0 0 0
  | none, none, some len =>
    if len < 64 then (lastOp l.mnemonic).map fun op => asmWord op len 0 0 else none
  | some nb, some steps, none =>
    if l.mnemonic = "PERM" ∧ steps < 32 then (nbCodeOf nb).map fun code => asmWord 0x02 0 code steps else none
  | _, _, _ => none

/-- The line of a command (R110). -/
def asmLine : Instr → AsmLine
  | .nop => { mnemonic := "NOP" }
  | .clear => { mnemonic := "CLEAR" }
  | .perm nb steps => { mnemonic := "PERM", nb := some ((branchCount nb).getD 0), steps := some steps.toNat }
  | .hashInit => { mnemonic := "HASH_INIT" }
  | .hashAbsorb => { mnemonic := "HASH_ABSORB" }
  | .hashLast len => { mnemonic := "HASH_LAST", len := some len.toNat }
  | .hashSqueeze => { mnemonic := "HASH_SQUEEZE" }
  | .aeadInit => { mnemonic := "AEAD_INIT" }
  | .aeadAd => { mnemonic := "AEAD_AD" }
  | .aeadAdLast len => { mnemonic := "AEAD_AD_LAST", len := some len.toNat }
  | .aeadEnc => { mnemonic := "AEAD_ENC" }
  | .aeadEncLast len => { mnemonic := "AEAD_ENC_LAST", len := some len.toNat }
  | .aeadDec => { mnemonic := "AEAD_DEC" }
  | .aeadDecLast len => { mnemonic := "AEAD_DEC_LAST", len := some len.toNat }
  | .aeadTag => { mnemonic := "AEAD_TAG" }
  | .aeadVerify => { mnemonic := "AEAD_VERIFY" }

end Sys2Proof.Machine
end

