-- ==== Sys2Proof/Machine/Check.lean ====
section
/-! DEFINITION. Check(w) on the raw command word, as 60_exceptions.md R242 writes it. The engine decodes the word and
each command makes its own checks; that the two agree is an obligation. -/

namespace Sys2Proof.Machine

/-- The 16 defined OP values (30_encoding.md R106). -/
def definedOps : List Nat :=
  [0x00, 0x01, 0x02, 0x08, 0x09, 0x0A, 0x0B, 0x10, 0x11, 0x12, 0x13, 0x14, 0x15, 0x16, 0x17, 0x18]

/-- LAST_OPS: HASH_LAST, AEAD_AD_LAST, AEAD_ENC_LAST, AEAD_DEC_LAST. -/
def lastOps : List Nat := [0x0A, 0x12, 0x14, 0x16]

/-- HASH_OPS. -/
def hashOps : List Nat := [0x08, 0x09, 0x0A, 0x0B]

/-- AEAD_OPS. -/
def aeadOps : List Nat := [0x10, 0x11, 0x12, 0x13, 0x14, 0x15, 0x16, 0x17, 0x18]

/-- PHASED_OPS: HASH_OPS and AEAD_OPS without the two INIT commands. -/
def phasedOps : List Nat := (hashOps ++ aeadOps).filter fun op => op != 0x08 && op != 0x10

/-- Allowed(op) (R244) for the phased commands. -/
def allowedPhases (op : Nat) : List Phase :=
  match op with
  | 0x09 => [.hEmpty, .hAbsorb]
  | 0x0A => [.hEmpty, .hAbsorb]
  | 0x0B => [.hSqueeze]
  | 0x11 => [.aReady, .aAd]
  | 0x12 => [.aReady, .aAd]
  | 0x13 => [.aReady, .aAdDone, .aEnc]
  | 0x14 => [.aReady, .aAdDone, .aEnc]
  | 0x15 => [.aReady, .aAdDone, .aDec]
  | 0x16 => [.aReady, .aAdDone, .aDec]
  | 0x17 => [.aReady, .aAdDone, .aEncDone]
  | 0x18 => [.aReady, .aAdDone, .aDecDone]
  | _ => []

/-- LenOK(op, n) (R245). -/
def lenOk (op n : Nat) (V : Variant) (phase : Phase) : Bool :=
  if op = 0x0A then decide (1 ≤ n ∧ n ≤ 16 ∨ n = 0 ∧ phase = .hEmpty) else decide (1 ≤ n ∧ n ≤ V.RB)

/-- Check(w) (R242): the first condition that applies gives the code. -/
def checkWord (w : Word) (V : Variant) (phase : Phase) : ErrCode :=
  let op := (w.extractLsb' 0 5).toNat
  if op ∉ definedOps then .illegal
  else if w.extractLsb' 5 3 ≠ 0 ∨ w.extractLsb' 21 11 ≠ 0 then .illegal
  else if op ∉ lastOps ∧ w.extractLsb' 8 6 ≠ 0 then .illegal
  else if op ≠ 0x02 ∧ w.extractLsb' 14 7 ≠ 0 then .illegal
  else if op = 0x02 ∧ w.extractLsb' 14 2 = 3 then .illegal
  else if op ∈ hashOps ∧ V ∉ [Variant.esch256, .esch384] then .variant
  else if op ∈ aeadOps ∧ V ∉ [Variant.schwaemm128_128, .schwaemm192_192, .schwaemm256_128] then .variant
  else if op ∈ phasedOps ∧ phase ∉ allowedPhases op then .sequence
  else if op ∈ lastOps ∧ lenOk op (w.extractLsb' 8 6).toNat V phase = false then .len
  else .noError

end Sys2Proof.Machine
end

