-- ==== Sys2Proof/Machine/Constructions.lean ====
section
/-! DEFINITION. The constructions as functions of byte strings: Esch(V, m) (41_hash.md R169), SchwaemmEnc and SchwaemmDec
(42_aead.md R214). -/

namespace Sys2Proof.Machine

/-- The interior blocks of `rb` bytes and the last block of a string: `while |m| > rb` takes a block off. `fuel` bounds
the number of blocks; the length of the string is enough. -/
def splitBlocks (rb : Nat) : Nat → List Byte → List (List Byte) × List Byte
  | 0, m => ([], m)
  | fuel + 1, m =>
    if rb < m.length then
      let r := splitBlocks rb fuel (m.drop rb)
      (m.take rb :: r.1, r.2)
    else ([], m)

/-- S after the whole message is absorbed (R169). -/
def eschAbsorb (V : Variant) (m : List Byte) : Vector Word 16 :=
  let blocks := splitBlocks 16 m.length m
  absorbLastHash V blocks.2 (blocks.1.foldl (fun S b => absorbHash V (wordsOf 4 b) S) (zeros 16))

/-- `count` squeezes after the first one: each applies `slim` steps and emits the rate (R169). -/
def squeezeMore (V : Variant) : Nat → Vector Word 16 → List Byte
  | 0, _ => []
  | count + 1, S =>
    let S := sparkle V.nb V.slim S
    bytesOf (S.toList.take 4) ++ squeezeMore V count S

/-- `Esch(V, m)` (R169). -/
def esch (V : Variant) (m : List Byte) : List Byte :=
  let S := eschAbsorb V m
  bytesOf (S.toList.take 4) ++ squeezeMore V (V.digestBytes / 16 - 1) S

/-- The direction of an AEAD operation. -/
inductive Direction where
  | encrypt
  | decrypt
deriving DecidableEq, Repr

/-- The plaintext of a data block: the input when encrypting, the output when decrypting (42_aead.md R202). -/
def plaintextOf (dir : Direction) (input output : List Byte) : List Byte :=
  match dir with
  | .encrypt => input
  | .decrypt => output

/-- S after AEAD_INIT with nonce `N` and key `K` (R214). -/
def schwaemmInit (V : Variant) (K N : List Byte) : Vector Word 16 :=
  sparkle V.nb V.big (loadNonceKey V (doutOf N) (doutOf K) (zeros 16))

/-- S after the associated data (R214); empty data is skipped (R197). -/
def schwaemmAd (V : Variant) (A : List Byte) (S : Vector Word 16) : Vector Word 16 :=
  if A = [] then S
  else
    let blocks := splitBlocks V.RB A.length A
    let S := blocks.1.foldl (fun S b => absorbBlock V (wordsOf V.R b) S) S
    absorbLastBlock V blocks.2 (markLastAd V blocks.2.length S)

/-- The interior data blocks: the output so far and S (R214). -/
def schwaemmBlocks (V : Variant) (dir : Direction) : List (List Byte) → Vector Word 16 → List Byte × Vector Word 16
  | [], S => ([], S)
  | b :: rest, S =>
    let out := dataOut V S b
    let r := schwaemmBlocks V dir rest (absorbBlock V (wordsOf V.R (plaintextOf dir b out)) S)
    (out ++ r.1, r.2)

/-- The output and S after the data (R214); empty data is skipped (R197). -/
def schwaemmData (V : Variant) (dir : Direction) (D : List Byte) (S : Vector Word 16) : List Byte × Vector Word 16 :=
  if D = [] then ([], S)
  else
    let blocks := splitBlocks V.RB D.length D
    let r := schwaemmBlocks V dir blocks.1 S
    let S := markLastData V blocks.2.length r.2
    let out := dataOut V S blocks.2
    (r.1 ++ out, absorbLastBlock V (plaintextOf dir blocks.2 out) S)

/-- The tag: the capacity XOR the key (R207). -/
def schwaemmTag (V : Variant) (K : List Byte) (S : Vector Word 16) : List Byte :=
  bytesOf ((List.range V.CW).map fun i => getW (xorKey V (doutOf K) S) (V.R + i))

/-- `SchwaemmEnc(V, K, N, A, M)` (R214): ciphertext and tag. -/
def schwaemmEnc (V : Variant) (K N A M : List Byte) : List Byte × List Byte :=
  let r := schwaemmData V .encrypt M (schwaemmAd V A (schwaemmInit V K N))
  (r.1, schwaemmTag V K r.2)

/-- `SchwaemmDec(V, K, N, A, C, T)` (R214): the verification result and the plaintext, which is returned either way
(R212). -/
def schwaemmDec (V : Variant) (K N A C T : List Byte) : Bool × List Byte :=
  let r := schwaemmData V .decrypt C (schwaemmAd V A (schwaemmInit V K N))
  (schwaemmTag V K r.2 == T, r.1)

end Sys2Proof.Machine
end

