-- ==== Sys2Proof/Machine/HostProgram.lean ====
section
/-! DEFINITION. Host statements by register name, the pseudo-instructions (30_encoding.md R111, R112), and the host
procedures of the hash (41_hash.md R176) and the AEAD (42_aead.md R229). -/

namespace Sys2Proof.Machine

/-- `WR <reg>, <value>` (R111). -/
def wr (r : Reg) (v : Word) : HostStmt := .write (regOffset r) 4 v

/-- `RD <reg> -> <name>` (R111). -/
def rd (r : Reg) (name : Nat) : HostStmt := .read (regOffset r) 4 name

/-- `CMD <command>` (R112). -/
def cmd (i : Instr) : List HostStmt := [wr .cmd (encode i), .poll]

/-- `LOAD DIN, <bytes>` (R112): all eight words are written. -/
def loadDin (b : List Byte) : List HostStmt :=
  (List.range 8).map fun i => wr (.din (Fin.ofNat 8 i)) (wordAt b i)

/-- `LOAD KEY, <bytes>` (R112). -/
def loadKey (b : List Byte) : List HostStmt :=
  (List.range 8).map fun i => wr (.key (Fin.ofNat 8 i)) (wordAt b i)

/-- `LOAD STATE, <words>` (R112), at most 16 words. -/
def loadState (ws : List Word) : List HostStmt :=
  (List.range ws.length).map fun i => wr (.state (Fin.ofNat 16 i)) (ws.getD i 0)

/-- The eight reads of `READ DOUT, n -> <name>` (R112): word `i` is bound to the name `name + i`. -/
def readDout (name : Nat) : List HostStmt :=
  (List.range 8).map fun i => rd (.dout (Fin.ofNat 8 i)) (name + i)

/-- `CLRST` (R112): clears DONE, ERR and OVR. -/
def clrst : HostStmt := wr .status 0x00000086

/-- The value last bound to a name. -/
def boundWord (name : Nat) (bound : List (Nat × Word)) : Word := (bound.lookup name).getD 0

/-- The bytes `READ DOUT, n -> <name>` has bound (R112). -/
def boundBytes (name n : Nat) (bound : List (Nat × Word)) : List Byte :=
  (bytesOf ((List.range 8).map fun i => boundWord (name + i) bound)).take n

/-- The host procedure of Esch (41_hash.md R176). The i-th part of the digest is bound to the names from `8 * i`. -/
def hashProcedure (V : Variant) (m : List Byte) : List HostStmt :=
  let blocks := splitBlocks 16 m.length m
  [wr .config (BitVec.setWidth 32 (variantCode V))] ++ cmd .hashInit ++
    (blocks.1.flatMap fun b => loadDin b ++ cmd .hashAbsorb) ++
    loadDin blocks.2 ++ cmd (.hashLast (BitVec.ofNat 6 blocks.2.length)) ++
    (List.range (V.digestBytes / 16)).flatMap fun i => cmd .hashSqueeze ++ readDout (8 * i)

/-- The digest a run of `hashProcedure` has bound (41_hash.md R168). -/
def boundDigest (V : Variant) (bound : List (Nat × Word)) : List Byte :=
  (List.range (V.digestBytes / 16)).flatMap fun i => boundBytes (8 * i) 16 bound

/-- The data commands of a direction (42_aead.md R229). -/
def dataCmd : Direction → Instr
  | .encrypt => .aeadEnc
  | .decrypt => .aeadDec

/-- The last data command of a direction (42_aead.md R229). -/
def dataLastCmd (dir : Direction) (len : BitVec 6) : Instr :=
  match dir with
  | .encrypt => .aeadEncLast len
  | .decrypt => .aeadDecLast len

/-- The interior data blocks of R229: the output of the i-th block is bound to the names from `name + 8 * i`. -/
def dataBlocksProcedure (dir : Direction) : Nat → List (List Byte) → List HostStmt
  | _, [] => []
  | name, b :: rest =>
    loadDin b ++ cmd (dataCmd dir) ++ readDout name ++ dataBlocksProcedure dir (name + 8) rest

/-- The host procedure of Schwaemm (42_aead.md R229) up to its last data block. -/
def aeadProcedure (V : Variant) (dir : Direction) (K N A D : List Byte) : List HostStmt :=
  let ad := splitBlocks V.RB A.length A
  let data := splitBlocks V.RB D.length D
  [wr .config (BitVec.setWidth 32 (variantCode V))] ++ loadKey K ++ loadDin N ++ cmd .aeadInit ++
    (if A = [] then []
     else (ad.1.flatMap fun b => loadDin b ++ cmd .aeadAd) ++
       loadDin ad.2 ++ cmd (.aeadAdLast (BitVec.ofNat 6 ad.2.length))) ++
    (if D = [] then []
     else dataBlocksProcedure dir 0 data.1 ++
       loadDin data.2 ++ cmd (dataLastCmd dir (BitVec.ofNat 6 data.2.length)) ++ readDout (8 * data.1.length))

/-- The first name after those of the output blocks of R229: the names of the tag, or the name of `verified`. -/
def resultName (V : Variant) (D : List Byte) : Nat := 8 * ((splitBlocks V.RB D.length D).1.length + 1)

/-- The statement that ends R229, which is optional. -/
def clearAtEnd (clear : Bool) : List HostStmt := if clear then cmd .clear else []

/-- `schwaemm*_encrypt` (R229), with or without the final CLEAR. The tag is bound to the names from `resultName V M`. -/
def encryptProcedure (V : Variant) (K N A M : List Byte) (clear : Bool) : List HostStmt :=
  aeadProcedure V .encrypt K N A M ++ cmd .aeadTag ++ readDout (resultName V M) ++ clearAtEnd clear

/-- `schwaemm*_decrypt` (R229), with or without the final CLEAR. STATUS is bound to the name `resultName V C`. -/
def decryptProcedure (V : Variant) (K N A C T : List Byte) (clear : Bool) : List HostStmt :=
  aeadProcedure V .decrypt K N A C ++ loadDin T ++ cmd .aeadVerify ++ [rd .status (resultName V C)] ++ clearAtEnd clear

/-- `out` of R229 after a run with the data `D`: RB bytes of every interior block, then the last block's `|D|` bytes. -/
def boundOutput (V : Variant) (D : List Byte) (bound : List (Nat × Word)) : List Byte :=
  let data := splitBlocks V.RB D.length D
  (List.range data.1.length).flatMap (fun i => boundBytes (8 * i) V.RB bound) ++
    boundBytes (8 * data.1.length) data.2.length bound

/-- `T` of R229 after an encryption of `M`: the 4CW bytes of the tag. -/
def boundTag (V : Variant) (M : List Byte) (bound : List (Nat × Word)) : List Byte :=
  boundBytes (resultName V M) (4 * V.CW) bound

/-- `verified` of R229 after a decryption of `C`: bit 3 of the STATUS word read. -/
def boundVerified (V : Variant) (C : List Byte) (bound : List (Nat × Word)) : Bool :=
  (boundWord (resultName V C) bound).getLsbD 3

end Sys2Proof.Machine
end

