-- ==== Sys2Proof/Machine/Timing.lean ====
section
/-! DEFINITION. The work of each performed command in Sparkle steps (70_reset_and_hazards.md R292): a function of the
command, the variant and SQZCNT only, never of data (R291). No rule of the machine reads it. -/

namespace Sys2Proof.Machine

/-- Sparkle steps of a performed command (R292). -/
def work (i : Instr) (V : Variant) (sqzcnt : BitVec 4) : Nat :=
  match i with
  | .nop | .clear | .hashInit | .aeadTag | .aeadVerify => 0
  | .perm _ steps => steps.toNat
  | .hashAbsorb | .aeadAd | .aeadEnc | .aeadDec => V.slim
  | .hashLast _ | .aeadInit | .aeadAdLast _ | .aeadEncLast _ | .aeadDecLast _ => V.big
  | .hashSqueeze => if sqzcnt = 0 then 0 else V.slim

end Sys2Proof.Machine
end

