-- ==== Sys2Proof/Safety.lean ====
section
/-! DEFINITION. The terms claims about the machine use: the invariant of every state a run reaches, what a host may do,
the ends of a command, and the spec's word-by-word relations between the state before and after a command. -/

namespace Sys2Proof.Safety

open Sys2Proof.Machine

/-! The invariant. -/

/-- The hash phases (10_state.md R42). -/
def hashPhases : List Phase := [.hEmpty, .hAbsorb, .hSqueeze, .hDone]

/-- The AEAD phases (10_state.md R42). -/
def aeadPhases : List Phase :=
  [.aReady, .aAd, .aAdDone, .aEnc, .aDec, .aEncDone, .aDecDone, .aDone]

/-- What holds in every state a run reaches from reset, whatever the host, its order against the engine and rst do. -/
structure Invariant (s : State) : Prop where
  /-- PENDING is valid exactly when BUSY = 1 (10_state.md R48). -/
  pending_busy : s.pending.isSome = s.busy
  /-- DONE is cleared when a command is accepted and set when it completes (R40). -/
  busy_not_done : s.busy = true → s.done = false
  /-- While rst is asserted nothing is in flight (70_reset_and_hazards.md R280). -/
  rst_not_busy : s.rst = true → s.busy = false
  /-- ERR and ERRCODE are set and cleared together (R41). -/
  err_code : s.err = true ↔ s.errcode ≠ .noError
  /-- A hash phase is reached under a hash variant only (60_exceptions.md R243, 10_state.md R46). -/
  hash_variant : s.phase ∈ hashPhases → s.variant.isEsch = true
  /-- An AEAD phase is reached under an AEAD variant only. -/
  aead_variant : s.phase ∈ aeadPhases → s.variant.isSchwaemm = true
  /-- In H_SQUEEZE the digest is not all squeezed (R42, R43). -/
  squeezing : s.phase = .hSqueeze → s.sqzcnt.toNat < s.variant.digestBytes / 16
  /-- In H_DONE the whole digest has been squeezed (R42, R43). -/
  squeezed : s.phase = .hDone → s.sqzcnt.toNat = s.variant.digestBytes / 16
  /-- In every other phase nothing has been squeezed since the count was last zeroed (R43). -/
  not_squeezing : s.phase ≠ .hSqueeze → s.phase ≠ .hDone → s.sqzcnt = 0

/-! The host. -/

/-- An access the block admits (20_memory.md R70, R74). -/
def accessAdmitted (off width : Nat) : Bool := off < 0x100 && off % 4 == 0 && width == 4

/-- A statement whose access the block admits. -/
def stmtAdmitted : HostStmt → Bool
  | .write off width _ => accessAdmitted off width
  | .read off width _ => accessAdmitted off width
  | .poll => true
  | .waitIrq => true

/-- Every access of the host program that is still to come is admitted. -/
def HostAdmitted (s : State) : Prop := ∀ stmt ∈ s.host, stmtAdmitted stmt = true

/-- A register whose write is dropped while BUSY = 1 (20_memory.md R79). -/
def droppedWhileBusy : Reg → Bool
  | .config | .cmd | .key _ | .din _ | .state _ => true
  | _ => false

/-- The phases in the middle of an operation (10_state.md R42): after its INIT and before its end. -/
def midOperation : Phase → Bool
  | .idle | .hDone | .aDone => false
  | _ => true

/-- The phases in which KEY is held for AEAD_TAG or AEAD_VERIFY (70_reset_and_hazards.md R288). -/
def keyHeld : Phase → Bool
  | .idle | .hEmpty | .hAbsorb | .hSqueeze | .hDone | .aDone => false
  | _ => true

/-- A word that decodes to PERM. -/
def isPermWord (w : Word) : Bool :=
  match decode w with
  | .ok i => i.usesNbSteps
  | .error _ => false

/-- A write that changes an input R288 keeps fixed: in the middle of an operation CONFIG, S, or a PERM command; and KEY
from AEAD_INIT to the tag. -/
def disturbsOperation (r : Reg) (v : Word) (phase : Phase) : Bool :=
  match r with
  | .config | .state _ => midOperation phase
  | .key _ => keyHeld phase
  | .cmd => midOperation phase && isPermWord v
  | _ => false

/-- The host keeps its duties (70_reset_and_hazards.md R293) at its next statement: while BUSY = 1 it neither writes a
register whose write would be dropped (R286) nor reads DOUT or STATE (R283), and it writes nothing that an operation in
progress keeps fixed (R288). The model has moves that break them; a claim about a host that keeps them assumes this
(log entry 16). -/
def hostDisciplined (s : State) : Bool :=
  match s.host with
  | .write off _ v :: _ =>
    !(s.busy && droppedWhileBusy (regAt off)) && !disturbsOperation (regAt off) v s.phase
  | .read off _ _ :: _ =>
    match regAt off with
    | .dout _ | .state _ => !s.busy
    | _ => true
  | _ => true

/-- The commands that write DOUT (10_state.md R35). -/
def writesDout : Instr → Bool
  | .clear | .hashInit | .hashSqueeze | .aeadInit | .aeadEnc | .aeadEncLast _ | .aeadDec | .aeadDecLast _
  | .aeadTag => true
  | _ => false

/-- How many words of DOUT hold a command's output block (41_hash.md R167, 42_aead.md R199, R209). -/
def outputWords (V : Variant) : Instr → Nat
  | .hashSqueeze => 4
  | .aeadEnc | .aeadDec => V.R
  | .aeadEncLast len | .aeadDecLast len => (len.toNat + 3) / 4
  | .aeadTag => V.CW
  | _ => 0

/-- The host keeps R287: it reads every word of each output block before its next command that writes DOUT. `unread` holds
the words of DOUT not yet read; `V` is the variant of the program. -/
def outputsRead (V : Variant) (unread : List Nat) : List HostStmt → Bool
  | [] => true
  | .write off _ w :: rest =>
    match regAt off, decode w with
    | .cmd, .ok i =>
      if writesDout i then unread.isEmpty && outputsRead V (List.range (outputWords V i)) rest
      else outputsRead V unread rest
    | _, _ => outputsRead V unread rest
  | .read off _ _ :: rest =>
    match regAt off with
    | .dout i => outputsRead V (unread.filter fun k => k != i.val) rest
    | _ => outputsRead V unread rest
  | .poll :: rest => outputsRead V unread rest
  | .waitIrq :: rest => outputsRead V unread rest

/-- The end of a run (70_reset_and_hazards.md R285): the host has no statement left and no command is in flight. -/
def EndOfRun (s : State) : Prop := s.host = [] ∧ s.busy = false

/-- The premises of a claim about a host program run from reset (70_reset_and_hazards.md R294). -/
def Launch (s : State) : Prop :=
  s = { State.reset with host := s.host, turns := s.turns }

/-! The two ends of a command (60_exceptions.md R240). -/

/-- The completion fields (20_memory.md R78) over a state. -/
def completed (s : State) : State := { s with pending := none, busy := false, done := true }

/-- The state after a command refused with `c` (60_exceptions.md R246). -/
def refusedWith (c : ErrCode) (s : State) : State :=
  { s with err := true, errcode := c, pending := none, busy := false, done := true }

/-- HASH_OPS (60_exceptions.md R242). -/
def hashCmd : Instr → Bool
  | .hashInit | .hashAbsorb | .hashLast _ | .hashSqueeze => true
  | _ => false

/-- AEAD_OPS (60_exceptions.md R242). -/
def aeadCmd : Instr → Bool
  | .aeadInit | .aeadAd | .aeadAdLast _ | .aeadEnc | .aeadEncLast _ | .aeadDec | .aeadDecLast _
  | .aeadTag | .aeadVerify => true
  | _ => false

/-- The variant check (60_exceptions.md R243). -/
def variantAdmits (i : Instr) (V : Variant) : Bool :=
  (!hashCmd i || V.isEsch) && (!aeadCmd i || V.isSchwaemm)

/-- The phases a command is admitted in (60_exceptions.md R244, second column); `none` is any phase. -/
def admittedPhases : Instr → Option (List Phase)
  | .hashAbsorb | .hashLast _ => some [.hEmpty, .hAbsorb]
  | .hashSqueeze => some [.hSqueeze]
  | .aeadAd | .aeadAdLast _ => some [.aReady, .aAd]
  | .aeadEnc | .aeadEncLast _ => some [.aReady, .aAdDone, .aEnc]
  | .aeadDec | .aeadDecLast _ => some [.aReady, .aAdDone, .aDec]
  | .aeadTag => some [.aReady, .aAdDone, .aEncDone]
  | .aeadVerify => some [.aReady, .aAdDone, .aDecDone]
  | .nop | .clear | .perm _ _ | .hashInit | .aeadInit => none

/-- The phase check (60_exceptions.md R244). -/
def phaseAdmits (i : Instr) (phase : Phase) : Bool :=
  match admittedPhases i with
  | some ps => decide (phase ∈ ps)
  | none => true

/-- LenOK (60_exceptions.md R245); a command without LEN has no length check. -/
def lenAdmits (i : Instr) (V : Variant) (phase : Phase) : Bool :=
  match i with
  | .hashLast len => decide (1 ≤ len.toNat ∧ len.toNat ≤ 16 ∨ len = 0 ∧ phase = .hEmpty)
  | .aeadAdLast len | .aeadEncLast len | .aeadDecLast len => decide (1 ≤ len.toNat ∧ len.toNat ≤ V.RB)
  | _ => true

/-- A decoded command the engine performs in `s`: no check of 60_exceptions.md R242 fails. -/
def admitted (i : Instr) (s : State) : Bool :=
  i.wf && variantAdmits i s.variant && phaseAdmits i s.phase && lenAdmits i s.variant s.phase

/-- The phase after a performed command (60_exceptions.md R244, third column). `last` says that a squeeze is the last
one of the digest. -/
def nextPhase (i : Instr) (last : Bool) (phase : Phase) : Phase :=
  match i with
  | .nop | .perm _ _ => phase
  | .clear => .idle
  | .hashInit => .hEmpty
  | .hashAbsorb => .hAbsorb
  | .hashLast _ => .hSqueeze
  | .hashSqueeze => if last then .hDone else .hSqueeze
  | .aeadInit => .aReady
  | .aeadAd => .aAd
  | .aeadAdLast _ => .aAdDone
  | .aeadEnc => .aEnc
  | .aeadEncLast _ => .aEncDone
  | .aeadDec => .aDec
  | .aeadDecLast _ => .aDecDone
  | .aeadTag | .aeadVerify => .aDone

/-! Word-by-word relations, `S` before and `T` after. -/

/-- Byte `k` of `bytes(v[0..])` (00_scope.md R13). -/
def fileByte {n : Nat} (v : Vector Word n) (k : Nat) : Byte := (getW v (k / 4)).extractLsb' (8 * (k % 4)) 8

/-- Byte `k` of a block whose bytes are `b 0 .. b (n-1)`, padded (41_hash.md R161). -/
def paddedByte (n : Nat) (b : Nat → Byte) (k : Nat) : Byte :=
  if k < n then b k else if k = n then 0x80 else 0

/-- `P` holds the first `count` words of the byte string `b` (00_scope.md R13). -/
def HoldsBytes (count : Nat) (b : Nat → Byte) (P : Nat → Word) : Prop :=
  ∀ i < count, ∀ j < 4, (P i).extractLsb' (8 * j) 8 = b (4 * i + j)

/-- `T` is `S` with `c` XORed into word `k`. -/
def Marked (k : Nat) (c : Word) (S T : Vector Word 16) : Prop :=
  ∀ i < 16, getW T i = if i = k then getW S i ^^^ c else getW S i

/-- `T` is `S` after `Inject(nb, P)` (41_hash.md R162). -/
def Injected (nb : Nat) (P : Nat → Word) (S T : Vector Word 16) : Prop :=
  let tx := ell (P 0 ^^^ P 2)
  let ty := ell (P 1 ^^^ P 3)
  (∀ j < nb / 2,
    getW T (2 * j) = getW S (2 * j) ^^^ (if j < 2 then P (2 * j) else 0) ^^^ ty ∧
    getW T (2 * j + 1) = getW S (2 * j + 1) ^^^ (if j < 2 then P (2 * j + 1) else 0) ^^^ tx) ∧
  ∀ i < 16, nb ≤ i → getW T i = getW S i

/-- Word `i` of `FeistelSwap(S[0..R-1])` (42_aead.md R191). -/
def swapped (R : Nat) (S : Vector Word 16) (i : Nat) : Word :=
  if i < R / 2 then getW S (R / 2 + i) else getW S i ^^^ getW S (i - R / 2)

/-- `T` is `S` after `Absorb(P)` (42_aead.md R192), with `R` rate words and `CW` capacity words. -/
def Absorbed (R CW : Nat) (P : Nat → Word) (S T : Vector Word 16) : Prop :=
  (∀ i < R, getW T i = swapped R S i ^^^ P i ^^^ getW S (R + i % CW)) ∧
  ∀ i < 16, R ≤ i → getW T i = getW S i

/-- A Schwaemm row of the table of 00_scope.md R8 (42_aead.md R190): branches, rate and capacity words, step counts. -/
structure AeadRow where
  variant : Variant
  nb : Nat
  R : Nat
  CW : Nat
  slim : Nat
  big : Nat
deriving DecidableEq, Repr

/-- The Schwaemm rows of 00_scope.md R8, written out as the table gives them. -/
def aeadRows : List AeadRow :=
  [{ variant := .schwaemm128_128, nb := 4, R := 4, CW := 4, slim := 7, big := 10 },
   { variant := .schwaemm192_192, nb := 6, R := 6, CW := 6, slim := 7, big := 11 },
   { variant := .schwaemm256_128, nb := 6, R := 8, CW := 4, slim := 7, big := 11 }]

/-- The words `DIN[0..n-1]` a command without LEN takes (10_state.md R34): the block, the nonce or the supplied tag. -/
def dinWords (V : Variant) : Instr → Nat
  | .hashAbsorb => 4
  | .aeadInit | .aeadAd | .aeadEnc | .aeadDec => V.R
  | .aeadVerify => V.CW
  | _ => 0

/-- The words `KEY[0..n-1]` a command takes (10_state.md R33). -/
def keyWords (V : Variant) : Instr → Nat
  | .aeadInit | .aeadTag | .aeadVerify => V.CW
  | _ => 0

/-- The domain constants A0, A1, M2, M3 of a Schwaemm variant (00_scope.md R8, 42_aead.md R196), k = 0, 1, 2, 3. -/
def domainConst (V : Variant) (k : Nat) : Word :=
  match V with
  | .schwaemm192_192 => [0x08000000, 0x09000000, 0x0A000000, 0x0B000000].getD k 0
  | _ => [0x04000000, 0x05000000, 0x06000000, 0x07000000].getD k 0

end Sys2Proof.Safety
end

