-- ==== Sys2Proof/Certificates/Slice0/Obligations.lean ====
section
/-! DEFINITION. The statements for the provers. Each docstring names the rules of spec/ it formalises. -/

open Sys2Proof Sys2Proof.Machine Sys2Proof.Safety

/-! Encoding. -/

/-- Decoding the word of a well-formed command gives it back, with every operand at every value (30_encoding.md R100 to
R106). -/
def Obligations.DecodeOfEncode : Prop :=
  ∀ i : Instr, i.wf = true → decode (encode i) = .ok i

/-- A word that decodes is the word of its command and no other word is: there are no "don't care" bits (R105). -/
def Obligations.EncodeOfDecode : Prop :=
  ∀ (w : Word) (i : Instr), decode w = .ok i → i.wf = true ∧ encode i = w

/-- R105: exactly these words are illegal, and the engine refuses them with ILLEGAL and changes nothing else. -/
def Obligations.IllegalWords : Prop :=
  (∀ w : Word, (∃ e, decode w = .error e) ↔
    w.extractLsb' 5 3 ≠ 0 ∨
    w.extractLsb' 21 11 ≠ 0 ∨
    (w.extractLsb' 8 6 ≠ 0 ∧ (w.extractLsb' 0 5).toNat ∉ [0x0A, 0x12, 0x14, 0x16]) ∨
    ((w.extractLsb' 14 2 ≠ 0 ∨ w.extractLsb' 16 5 ≠ 0) ∧ (w.extractLsb' 0 5).toNat ≠ 0x02) ∨
    (w.extractLsb' 14 2 = 3 ∧ (w.extractLsb' 0 5).toNat = 0x02) ∨
    (0x03 ≤ (w.extractLsb' 0 5).toNat ∧ (w.extractLsb' 0 5).toNat ≤ 0x07) ∨
    (0x0C ≤ (w.extractLsb' 0 5).toNat ∧ (w.extractLsb' 0 5).toNat ≤ 0x0F) ∨
    0x19 ≤ (w.extractLsb' 0 5).toNat) ∧
  ∀ (s : State) (w : Word) (e : DecodeError), s.busy = true → s.rst = false → s.pending = some w →
    decode w = .error e → engineTurn s = .next (refusedWith .illegal s)

/-- The example words of R110 and R113, one or more of each family, written as the spec writes them. That 0x000BC002 is
illegal follows R113, against 90_conflicts.md C10: the model's choice, log entry 15. -/
def Obligations.SpecWordsDecode : Prop :=
  decode 0x000B4002 = .ok (.perm 1 11) ∧ decode 0x000C8002 = .ok (.perm 2 12) ∧
  decode 0x000BC002 = .error .reservedNb ∧ decode 0x00000001 = .ok .clear ∧
  decode 0x0000030A = .ok (.hashLast 3) ∧ decode 0x0000000B = .ok .hashSqueeze ∧
  decode 0x00001012 = .ok (.aeadAdLast 16) ∧ decode 0x00000514 = .ok (.aeadEncLast 5) ∧
  decode 0x00000516 = .ok (.aeadDecLast 5) ∧ decode 0x00000018 = .ok .aeadVerify

/-- The assembler makes a word exactly of the lines that name a command with the fields it uses, each in its range and no
other (R110). The code of 8 branches is log entry 15, and that a value beyond its field makes no word is log entry 17:
choices of the model. -/
def Obligations.AssemblerExact : Prop :=
  ∀ (l : AsmLine) (w : Word), assemble l = some w ↔ ∃ i : Instr, i.wf = true ∧ asmLine i = l ∧ encode i = w

/-! The engine. -/

/-- A step runs the decoded command: where the engine moves with a command pending, the step is `exec` of it, at the state
whose turn has been taken off. That the engine moves when no turn is left is the model's choice (log entry 1). -/
def Obligations.StepRunsDecoded : Prop :=
  (∀ (s : State) (w : Word) (i : Instr) (rest : List Turn), s.rst = false → s.busy = true → s.pending = some w →
    decode w = .ok i → s.turns = .engine :: rest → step s = exec i { s with turns := rest }) ∧
  (∀ (s : State) (w : Word) (i : Instr), s.rst = false → s.busy = true → s.pending = some w →
    decode w = .ok i → s.turns = [] → step s = exec i s) ∧
  ∀ (s : State) (i : Instr), i.wf = true →
    step (s.withFetchWord 32 (encode i).toNat) =
      exec i { s with pending := some (encode i), busy := true, done := false, rst := false }

/-- R242: the check of the raw word, made in the order the rule writes, decides how the command ends: the first condition
that applies gives the code it is refused with, and a word that meets none is performed. -/
def Obligations.CheckOrder : Prop :=
  ∀ (s : State) (w : Word), s.busy = true → s.rst = false → s.pending = some w →
    (checkWord w s.variant s.phase ≠ .noError →
      engineTurn s = .next (refusedWith (checkWord w s.variant s.phase) s)) ∧
    (checkWord w s.variant s.phase = .noError →
      ∃ (i : Instr) (t : State), decode w = .ok i ∧ admitted i s = true ∧ engineTurn s = .next t ∧
        t.err = s.err ∧ t.errcode = s.errcode ∧ t.pending = none ∧ t.busy = false ∧ t.done = true)

/-- The three codes of a decoded command, in their order: VARIANT (R243), SEQUENCE (R244), LEN (R245). -/
def Obligations.RefusalCodes : Prop :=
  ∀ (i : Instr) (s : State),
    (variantAdmits i s.variant = false → exec i s = .next (refusedWith .variant s)) ∧
    (variantAdmits i s.variant = true → phaseAdmits i s.phase = false → exec i s = .next (refusedWith .sequence s)) ∧
    (variantAdmits i s.variant = true → phaseAdmits i s.phase = true → lenAdmits i s.variant s.phase = false →
      exec i s = .next (refusedWith .len s))

/-- Every admitted command is performed and moves PHASE as the table of R244 says. -/
def Obligations.PhaseTable : Prop :=
  ∀ (i : Instr) (s : State), admitted i s = true →
    ∃ t, exec i s = .next t ∧
      t.phase = nextPhase i (decide ((s.sqzcnt + 1).toNat = s.variant.digestBytes / 16)) s.phase ∧
      t.err = s.err ∧ t.errcode = s.errcode ∧ t.pending = none ∧ t.busy = false ∧ t.done = true

/-- What no command changes, and what only some change: KEY and DIN are written by CLEAR alone, DOUT and VERIFIED by the
commands R35 and R44 name, S not by NOP; CTRL, CONFIG, OVR and everything that is not the engine's stay. -/
def Obligations.CommandFrame : Prop :=
  ∀ (i : Instr) (s t : State), exec i s = .next t →
    (i ≠ .clear → t.key = s.key ∧ t.din = s.din) ∧
    (i = .nop → t.S = s.S) ∧
    (i ∉ [.clear, .hashInit, .hashSqueeze, .aeadInit, .aeadEnc, .aeadDec, .aeadTag] →
      i.usesLen = false → t.dout = s.dout) ∧
    ((∃ len, i = .hashLast len ∨ i = .aeadAdLast len) → t.dout = s.dout) ∧
    (i ∉ [.clear, .aeadInit, .aeadVerify] → t.verified = s.verified) ∧
    ((∀ len, i ≠ .hashLast len) → i ∉ [.clear, .hashInit, .hashSqueeze] → t.sqzcnt = s.sqzcnt) ∧
    t.irqen = s.irqen ∧ t.variant = s.variant ∧ t.ovr = s.ovr ∧ t.rst = s.rst ∧
    t.host = s.host ∧ t.bound = s.bound ∧ t.turns = s.turns ∧ t.draws = s.draws

/-- Whether a command is performed or refused, and with which code, depends on the word, CONFIG and PHASE only: no error
depends on secret data (R247). -/
def Obligations.RefusalIndependentOfData : Prop :=
  ∀ (i : Instr) (s s' t t' : State), s.variant = s'.variant → s.phase = s'.phase →
    s.err = false → s'.err = false → s.errcode = s'.errcode →
    exec i s = .next t → exec i s' = .next t' → t.err = t'.err ∧ t.errcode = t'.errcode

/-! The permutation. -/

/-- R131: ℓ on two halves, and the rule's examples. -/
def Obligations.EllHalves : Prop :=
  (∀ a : Word, ell a = rotr (a ^^^ (a <<< 16)) 16) ∧
  (∀ hi lo : BitVec 16, ell (hi ++ lo) = lo ++ (hi ^^^ lo)) ∧
  ell 0x00000001 = 0x00010001 ∧ ell 0x00010000 = 0x00000001 ∧ ell 0x12345678 = 0x5678444C ∧
  ell 0xFFFFFFFF = 0xFFFF0000

/-- Alzette (R133): its twelve assignments in order, each reading what the one before wrote, and the rule's example. -/
def Obligations.AlzetteLines : Prop :=
  alzette 0x00000000 0x00000000 0xB7E15162 = (0x44DD4DE9, 0xE5581F2D) ∧
  ∀ x0 y0 c : Word, ∀ x1 y1 x2 y2 x3 y3 x4 y4 : Word,
    x1 = x0 + rotr y0 31 → y1 = y0 ^^^ rotr x1 24 →
    x2 = (x1 ^^^ c) + rotr y1 17 → y2 = y1 ^^^ rotr x2 17 →
    x3 = (x2 ^^^ c) + y2 → y3 = y2 ^^^ rotr x3 31 →
    x4 = (x3 ^^^ c) + rotr y3 24 → y4 = y3 ^^^ rotr x4 16 →
    alzette x0 y0 c = (x4 ^^^ c, y4)

/-- Step constants (R134): `y_0` and `y_1` and no other word. -/
def Obligations.StepConstantWords : Prop :=
  ∀ (i : Nat) (S : Vector Word 16),
    getW (stepConstants i S) 1 = getW S 1 ^^^
      [0xB7E15162, 0xBF715880, 0x38B4DA56, 0x324E7738, 0xBB1185EB, 0x4F7C7B57, 0xCFBFA1C8, 0xC2B3293D].getD (i % 8) 0 ∧
    getW (stepConstants i S) 3 = getW S 3 ^^^ BitVec.ofNat 32 i ∧
    ∀ k, k ≠ 1 → k ≠ 3 → getW (stepConstants i S) k = getW S k

/-- The ARX layer (R135 step 2, R137): branch `j` is Alzette of branch `j` alone, with the constant RC[j]; words beyond the
branches stay. -/
def Obligations.ArxLayerBranches : Prop :=
  ∀ (nb : Nat) (S : Vector Word 16), nb ≤ 8 →
    (∀ j < nb, (getW (arxLayer nb S) (2 * j), getW (arxLayer nb S) (2 * j + 1)) =
      alzette (getW S (2 * j)) (getW S (2 * j + 1)) (rc j)) ∧
    ∀ k, 2 * nb ≤ k → getW (arxLayer nb S) k = getW S k

/-- The linear layer (R136): every word of the new state in terms of the old one. -/
def Obligations.LinearLayerWords : Prop :=
  ∀ (nb : Nat) (old : Vector Word 16), nb = 4 ∨ nb = 6 ∨ nb = 8 →
    ∀ tx ty : Word,
      tx = ell ((List.range (nb / 2)).foldl (fun a j => a ^^^ getW old (2 * j)) 0) →
      ty = ell ((List.range (nb / 2)).foldl (fun a j => a ^^^ getW old (2 * j + 1)) 0) →
      (∀ k < nb / 2, ∀ m, m = (k + 1) % (nb / 2) →
        getW (linearLayer nb old) (2 * k) = getW old (2 * (nb / 2 + m)) ^^^ getW old (2 * m) ^^^ ty ∧
        getW (linearLayer nb old) (2 * k + 1) = getW old (2 * (nb / 2 + m) + 1) ^^^ getW old (2 * m + 1) ^^^ tx ∧
        getW (linearLayer nb old) (2 * (nb / 2 + k)) = getW old (2 * k) ∧
        getW (linearLayer nb old) (2 * (nb / 2 + k) + 1) = getW old (2 * k + 1)) ∧
      ∀ k, 2 * nb ≤ k → getW (linearLayer nb old) k = getW old k

/-- Sparkle (R135): no step with `steps = 0`; one step more is the step constants, the ARX layer and the linear layer of
step `n`; words beyond the branches are never written, nor do they reach the others. -/
def Obligations.SparkleSteps : Prop :=
  ∀ (nb n : Nat) (S : Vector Word 16), nb = 4 ∨ nb = 6 ∨ nb = 8 →
    sparkle nb 0 S = S ∧
    sparkle nb (n + 1) S = linearLayer nb (arxLayer nb (stepConstants n (sparkle nb n S))) ∧
    (∀ k, 2 * nb ≤ k → getW (sparkle nb n S) k = getW S k) ∧
    ∀ S' : Vector Word 16, (∀ k < 2 * nb, getW S k = getW S' k) →
      ∀ k < 2 * nb, getW (sparkle nb n S) k = getW (sparkle nb n S') k

/-- Sparkle is a permutation: for every branch count and step count different states go to different states. -/
def Obligations.SparkleInjective : Prop :=
  ∀ (nb steps : Nat) (S S' : Vector Word 16), nb = 4 ∨ nb = 6 ∨ nb = 8 →
    sparkle nb steps S = sparkle nb steps S' → S = S'

/-! The engine commands. -/

/-- NOP (R139): the word 0, performed in every variant and phase, with the completion fields as its only effect; every other
word with OP = 0 is illegal. -/
def Obligations.NopResult : Prop :=
  decode 0x00000000 = .ok .nop ∧
  (∀ s : State, exec .nop s = .next (completed s)) ∧
  ∀ w : Word, w.extractLsb' 0 5 = 0 → w ≠ 0 → ∃ e, decode w = .error e

/-- CLEAR (R140): performed in every variant and phase; S, KEY, DIN and DOUT are zero after it, PHASE is IDLE, and nothing
else changes. -/
def Obligations.ClearResult : Prop :=
  ∀ s : State, ∃ (S : Vector Word 16) (K D O : Vector Word 8),
    (∀ k, getW S k = 0) ∧ (∀ k, getW K k = 0 ∧ getW D k = 0 ∧ getW O k = 0) ∧
    exec .clear s = .next (completed
      { s with S := S, key := K, din := D, dout := O, verified := false, phase := .idle, sqzcnt := 0 })

/-- PERM (R141): performed in every variant and phase with 4, 6 or 8 branches; only the first 2nb words can change, none
with STEPS = 0. The term with NB = 3, which no word decodes to, is refused with ILLEGAL: the model's choice, log entry 11.
-/
def Obligations.PermResult : Prop :=
  ∀ (nb : BitVec 2) (steps : BitVec 5) (s : State),
    (nb = 3 → exec (.perm nb steps) s = .next (refusedWith .illegal s)) ∧
    (nb ≠ 3 → ∀ b, b = [4, 6, 8].getD nb.toNat 0 →
      exec (.perm nb steps) s = .next (completed { s with S := sparkle b steps.toNat s.S }) ∧
      (steps = 0 → sparkle b steps.toNat s.S = s.S) ∧
      ∀ k, 2 * b ≤ k → getW (sparkle b steps.toNat s.S) k = getW s.S k)

/-! The parameters. -/

/-- The parameter table (00_scope.md R2, R8; 42_aead.md R190, R196): for each variant the branches, the rate and capacity
words, the rate in bytes, the step counts and the digest bytes; the constants of Esch; the four constants of each Schwaemm
variant. -/
def Obligations.VariantTable : Prop :=
  ([Variant.esch256, .esch384, .schwaemm128_128, .schwaemm192_192, .schwaemm256_128].map fun V =>
    [V.nb, V.R, V.CW, V.RB, V.slim, V.big]) =
    [[6, 4, 8, 16, 7, 11], [8, 4, 12, 16, 8, 12], [4, 4, 4, 16, 7, 10], [6, 6, 6, 24, 7, 11], [6, 8, 4, 32, 7, 11]] ∧
  (Variant.esch256.digestBytes = 32 ∧ Variant.esch384.digestBytes = 48) ∧
  (eschConst false = 0x01000000 ∧ eschConst true = 0x02000000) ∧
  (List.range 4).map Variant.schwaemm128_128.aeadConst = [0x04000000, 0x05000000, 0x06000000, 0x07000000] ∧
  (List.range 4).map Variant.schwaemm192_192.aeadConst = [0x08000000, 0x09000000, 0x0A000000, 0x0B000000] ∧
  (List.range 4).map Variant.schwaemm256_128.aeadConst = [0x04000000, 0x05000000, 0x06000000, 0x07000000]

/-! The hash. -/

/-- Padding (41_hash.md R161), byte by byte: a full block is itself, a short one gets 0x80 and zeros; and the rule's example.
-/
def Obligations.PadBytes : Prop :=
  wordsOf 4 (pad [0x61, 0x62, 0x63] 16) = [0x80636261, 0, 0, 0] ∧
  ∀ (b : List Byte) (rb : Nat), b.length ≤ rb →
    (pad b rb).length = rb ∧
    (b.length = rb → pad b rb = b) ∧
    ∀ k < rb, (pad b rb).getD k 0 = paddedByte b.length (fun k => b.getD k 0) k

/-- HASH_INIT (R164): under an Esch variant it is performed in every phase; all 16 words of S and DOUT are zero. -/
def Obligations.HashInitResult : Prop :=
  ∀ s : State, s.variant.isEsch = true → ∃ (S : Vector Word 16) (O : Vector Word 8),
    (∀ k, getW S k = 0) ∧ (∀ k, getW O k = 0) ∧
    exec .hashInit s = .next (completed { s with S := S, dout := O, phase := .hEmpty, sqzcnt := 0 })

/-- HASH_ABSORB (R165): under an Esch variant, from H_EMPTY or H_ABSORB, DIN[0..3] is injected unpadded and without a
constant, and `slim` steps follow; nothing else changes. -/
def Obligations.HashAbsorbResult : Prop :=
  ∀ s : State, s.variant.isEsch = true → s.phase ∈ [.hEmpty, .hAbsorb] →
    ∃ T : Vector Word 16, Injected (if s.variant = .esch256 then 6 else 8) (getW s.din) s.S T ∧
      exec .hashAbsorb s = .next (completed
        { s with S := sparkle (if s.variant = .esch256 then 6 else 8) (if s.variant = .esch256 then 7 else 8) T, phase := .hAbsorb })

/-- HASH_LAST (R166): the constant of R163 goes into S[nb-1], the padded block of LEN bytes is injected, and `big` steps
follow; LEN = 0 is the empty message. -/
def Obligations.HashLastResult : Prop :=
  ∀ (len : BitVec 6) (s : State), s.variant.isEsch = true → s.phase ∈ [.hEmpty, .hAbsorb] →
    len.toNat ≤ 16 → (len = 0 → s.phase = .hEmpty) →
    ∃ (M T : Vector Word 16) (P : Nat → Word),
      Marked ((if s.variant = .esch256 then 6 else 8) - 1) (if len.toNat < 16 then 0x01000000 else 0x02000000) s.S M ∧
      HoldsBytes 4 (paddedByte len.toNat (fileByte s.din)) P ∧
      Injected (if s.variant = .esch256 then 6 else 8) P M T ∧
      exec (.hashLast len) s = .next (completed
        { s with
          S := sparkle (if s.variant = .esch256 then 6 else 8) (if s.variant = .esch256 then 11 else 12) T
          phase := .hSqueeze
          sqzcnt := 0 })

/-- HASH_SQUEEZE (R167): no permutation on the first squeeze, `slim` steps on each later one; DOUT[0..3] is the rate and
DOUT[4..7] zero; SQZCNT counts, and the last squeeze of the digest ends in H_DONE. -/
def Obligations.HashSqueezeResult : Prop :=
  ∀ s : State, s.variant.isEsch = true → s.phase = .hSqueeze →
    ∃ (T : Vector Word 16) (O : Vector Word 8),
      (s.sqzcnt = 0 → T = s.S) ∧
      (s.sqzcnt ≠ 0 → T = sparkle (if s.variant = .esch256 then 6 else 8) (if s.variant = .esch256 then 7 else 8) s.S) ∧
      (∀ k < 4, getW O k = getW T k) ∧ (∀ k, 4 ≤ k → getW O k = 0) ∧
      exec .hashSqueeze s = .next (completed
        { s with
          S := T
          dout := O
          sqzcnt := s.sqzcnt + 1
          phase := if (s.sqzcnt + 1).toNat = (if s.variant = .esch256 then 2 else 3) then .hDone else .hSqueeze })

/-! The AEAD. A row of `aeadRows` gives a variant with its branches, rate, capacity and step counts in numbers (R8). -/

/-- AEAD_INIT (R193): under a Schwaemm variant it is performed in every phase: nonce in the rate, key in the capacity, the
rest zero, then `big` steps; DOUT and VERIFIED are zeroed. -/
def Obligations.AeadInitResult : Prop :=
  ∀ (p : AeadRow) (s : State), p ∈ aeadRows → s.variant = p.variant → ∃ (T : Vector Word 16) (O : Vector Word 8),
    (∀ k < p.R, getW T k = getW s.din k) ∧
    (∀ k < p.CW, getW T (p.R + k) = getW s.key k) ∧
    (∀ k, p.R + p.CW ≤ k → getW T k = 0) ∧
    (∀ k, getW O k = 0) ∧
    exec .aeadInit s = .next (completed
      { s with S := sparkle p.nb p.big T, dout := O, verified := false, phase := .aReady })

/-- AEAD_AD (R194): DIN[0..R-1] is absorbed, then `slim` steps; DOUT and everything else stay. -/
def Obligations.AeadAdResult : Prop :=
  ∀ (p : AeadRow) (s : State), p ∈ aeadRows → s.variant = p.variant → s.phase ∈ [.aReady, .aAd] →
    ∃ T : Vector Word 16, Absorbed p.R p.CW (getW s.din) s.S T ∧
      exec .aeadAd s = .next (completed { s with S := sparkle p.nb p.slim T, phase := .aAd })

/-- AEAD_AD_LAST (R195): A0 or A1 into S[2nb-1], the padded block absorbed after it, then `big` steps. -/
def Obligations.AeadAdLastResult : Prop :=
  ∀ (p : AeadRow) (len : BitVec 6) (s : State), p ∈ aeadRows → s.variant = p.variant → s.phase ∈ [.aReady, .aAd] →
    1 ≤ len.toNat → len.toNat ≤ 4 * p.R →
    ∃ (M T : Vector Word 16) (P : Nat → Word),
      Marked (2 * p.nb - 1) (domainConst p.variant (if len.toNat < 4 * p.R then 0 else 1)) s.S M ∧
      HoldsBytes p.R (paddedByte len.toNat (fileByte s.din)) P ∧
      Absorbed p.R p.CW P M T ∧
      exec (.aeadAdLast len) s = .next (completed
        { s with S := sparkle p.nb p.big T, phase := .aAdDone })

/-- AEAD_ENC (R200): DOUT is the rate XOR DIN, zero beyond the rate; the plaintext is absorbed; `slim` steps. -/
def Obligations.AeadEncResult : Prop :=
  ∀ (p : AeadRow) (s : State), p ∈ aeadRows → s.variant = p.variant → s.phase ∈ [.aReady, .aAdDone, .aEnc] →
    ∃ (T : Vector Word 16) (O : Vector Word 8),
      (∀ k < p.R, getW O k = getW s.S k ^^^ getW s.din k) ∧
      (∀ k, p.R ≤ k → getW O k = 0) ∧
      Absorbed p.R p.CW (getW s.din) s.S T ∧
      exec .aeadEnc s = .next (completed
        { s with S := sparkle p.nb p.slim T, dout := O, phase := .aEnc })

/-- AEAD_ENC_LAST (R201): M2 or M3 into S[2nb-1]; the first LEN bytes of DOUT are the rate XOR DIN, the others zero; the
padded plaintext is absorbed; `big` steps. -/
def Obligations.AeadEncLastResult : Prop :=
  ∀ (p : AeadRow) (len : BitVec 6) (s : State), p ∈ aeadRows → s.variant = p.variant → s.phase ∈ [.aReady, .aAdDone, .aEnc] →
    1 ≤ len.toNat → len.toNat ≤ 4 * p.R →
    ∃ (M T : Vector Word 16) (O : Vector Word 8) (P : Nat → Word),
      Marked (2 * p.nb - 1) (domainConst p.variant (if len.toNat < 4 * p.R then 2 else 3)) s.S M ∧
      (∀ k < 32, fileByte O k = if k < len.toNat then fileByte M k ^^^ fileByte s.din k else 0) ∧
      HoldsBytes p.R (paddedByte len.toNat (fileByte s.din)) P ∧
      Absorbed p.R p.CW P M T ∧
      exec (.aeadEncLast len) s = .next (completed
        { s with S := sparkle p.nb p.big T, dout := O, phase := .aEncDone })

/-- AEAD_DEC (R204): DOUT is the rate XOR DIN; the recovered plaintext, not the ciphertext, is absorbed. -/
def Obligations.AeadDecResult : Prop :=
  ∀ (p : AeadRow) (s : State), p ∈ aeadRows → s.variant = p.variant → s.phase ∈ [.aReady, .aAdDone, .aDec] →
    ∃ (T : Vector Word 16) (O : Vector Word 8),
      (∀ k < p.R, getW O k = getW s.S k ^^^ getW s.din k) ∧
      (∀ k, p.R ≤ k → getW O k = 0) ∧
      Absorbed p.R p.CW (getW O) s.S T ∧
      exec .aeadDec s = .next (completed
        { s with S := sparkle p.nb p.slim T, dout := O, phase := .aDec })

/-- AEAD_DEC_LAST (R205): as AEAD_ENC_LAST, but the recovered plaintext in DOUT, padded, is absorbed. -/
def Obligations.AeadDecLastResult : Prop :=
  ∀ (p : AeadRow) (len : BitVec 6) (s : State), p ∈ aeadRows → s.variant = p.variant → s.phase ∈ [.aReady, .aAdDone, .aDec] →
    1 ≤ len.toNat → len.toNat ≤ 4 * p.R →
    ∃ (M T : Vector Word 16) (O : Vector Word 8) (P : Nat → Word),
      Marked (2 * p.nb - 1) (domainConst p.variant (if len.toNat < 4 * p.R then 2 else 3)) s.S M ∧
      (∀ k < 32, fileByte O k = if k < len.toNat then fileByte M k ^^^ fileByte s.din k else 0) ∧
      HoldsBytes p.R (paddedByte len.toNat (fileByte O)) P ∧
      Absorbed p.R p.CW P M T ∧
      exec (.aeadDecLast len) s = .next (completed
        { s with S := sparkle p.nb p.big T, dout := O, phase := .aDecDone })

/-- AEAD_TAG (R209): the key is XORed into the capacity and kept there, and the capacity is put out in DOUT. -/
def Obligations.AeadTagResult : Prop :=
  ∀ (p : AeadRow) (s : State), p ∈ aeadRows → s.variant = p.variant → s.phase ∈ [.aReady, .aAdDone, .aEncDone] →
    ∃ (T : Vector Word 16) (O : Vector Word 8),
      (∀ k < p.CW, getW T (p.R + k) = getW s.S (p.R + k) ^^^ getW s.key k) ∧
      (∀ k, k < p.R ∨ p.R + p.CW ≤ k → getW T k = getW s.S k) ∧
      (∀ k < p.CW, getW O k = getW T (p.R + k)) ∧
      (∀ k, p.CW ≤ k → getW O k = 0) ∧
      exec .aeadTag s = .next (completed { s with S := T, dout := O, phase := .aDone })

/-- AEAD_VERIFY (R210, R211): VERIFIED is 1 exactly when all words of the capacity XOR the key equal the supplied tag; a
mismatch is no error; DOUT is not written. -/
def Obligations.AeadVerifyResult : Prop :=
  ∀ (p : AeadRow) (s : State), p ∈ aeadRows → s.variant = p.variant → s.phase ∈ [.aReady, .aAdDone, .aDecDone] →
    ∃ (T : Vector Word 16) (ok : Bool),
      (∀ k < p.CW, getW T (p.R + k) = getW s.S (p.R + k) ^^^ getW s.key k) ∧
      (∀ k, k < p.R ∨ p.R + p.CW ≤ k → getW T k = getW s.S k) ∧
      (ok = true ↔ ∀ k < p.CW, getW s.S (p.R + k) ^^^ getW s.key k = getW s.din k) ∧
      exec .aeadVerify s = .next (completed { s with S := T, verified := ok, phase := .aDone })

/-- Decryption mirrors encryption (R202): decrypting what an encryption command put out, from the same S, gives the
plaintext in DOUT and the same S; for every interior block, the first one or a later one, and for a last block of LEN
bytes. The phase `q` is the one the decryption stands in. -/
def Obligations.DecryptionMirrorsEncryption : Prop :=
  (∀ (s t u : State) (q : Phase), s.variant.isSchwaemm = true → s.phase ∈ [.aReady, .aAdDone, .aEnc] →
    q ∈ [.aReady, .aAdDone, .aDec] →
    exec .aeadEnc s = .next t → exec .aeadDec { s with din := t.dout, phase := q } = .next u →
    u.S = t.S ∧ ∀ k < 8, getW u.dout k = if k < s.variant.R then getW s.din k else 0) ∧
  ∀ (len : BitVec 6) (s t u : State) (q : Phase), s.variant.isSchwaemm = true →
    s.phase ∈ [.aReady, .aAdDone, .aEnc] → q ∈ [.aReady, .aAdDone, .aDec] →
    1 ≤ len.toNat → len.toNat ≤ s.variant.RB →
    exec (.aeadEncLast len) s = .next t →
    exec (.aeadDecLast len) { s with din := t.dout, phase := q } = .next u →
    u.S = t.S ∧ ∀ k < 32, fileByte u.dout k = if k < len.toNat then fileByte s.din k else 0

/-- The round trip of the construction (R214): decrypting an encryption under the same key, nonce and associated data
verifies and gives the plaintext back, for byte strings of every length. -/
def Obligations.SchwaemmRoundTrip : Prop :=
  ∀ (V : Variant) (K N A M : List Byte), V.isSchwaemm = true →
    schwaemmDec V K N A (schwaemmEnc V K N A M).1 (schwaemmEnc V K N A M).2 = (true, M)

/-- Lengths of the construction: the ciphertext is as long as the plaintext, the tag has 4CW bytes (R190, R199), and the
digest of Esch has 32 or 48 bytes (R168). -/
def Obligations.OutputLengths : Prop :=
  (∀ (V : Variant) (K N A M : List Byte), V.isSchwaemm = true →
    (schwaemmEnc V K N A M).1.length = M.length ∧ (schwaemmEnc V K N A M).2.length = 4 * V.CW) ∧
  ∀ m : List Byte, (esch .esch256 m).length = 32 ∧ (esch .esch384 m).length = 48

/-- Bytes of DIN beyond the LEN a last-block command takes, and all of KEY, never reach its result (10_state.md R33, R34,
U17). -/
def Obligations.DinBeyondLenIgnored : Prop :=
  ∀ (i : Instr) (len : BitVec 6) (s t : State) (D K : Vector Word 8),
    i ∈ [.hashLast len, .aeadAdLast len, .aeadEncLast len, .aeadDecLast len] →
    (∀ k < len.toNat, fileByte D k = fileByte s.din k) →
    exec i s = .next t → exec i { s with din := D, key := K } = .next { t with din := D, key := K }

/-- Words of DIN and KEY a command without LEN does not take never reach its result; CLEAR, which writes both, leaves the
same state whatever they hold (10_state.md R33, R34, U17). -/
def Obligations.UnusedOperandWordsIgnored : Prop :=
  (∀ (i : Instr) (s t : State) (D K : Vector Word 8), i ≠ .clear → i.usesLen = false →
    (∀ k < dinWords s.variant i, getW D k = getW s.din k) →
    (∀ k < keyWords s.variant i, getW K k = getW s.key k) →
    exec i s = .next t → exec i { s with din := D, key := K } = .next { t with din := D, key := K }) ∧
  ∀ (s : State) (D K : Vector Word 8), exec .clear { s with din := D, key := K } = exec .clear s

/-! The window. -/

/-- Acceptance (20_memory.md R77): a CMD write while BUSY = 0 sets PENDING, BUSY and DONE and nothing else; no field of the
word is checked. -/
def Obligations.CmdAcceptance : Prop :=
  ∀ (w : Word) (s : State), s.rst = false → s.busy = false →
    hostWrite 0x010 4 w s = .next { s with pending := some w, busy := true, done := false }

/-- R79: which writes while BUSY = 1 are dropped with OVR, which take effect, which are ignored, and which reads return the
register's value or any value; and no access of the host changes KEY, DIN or S while a command is in flight. -/
def Obligations.BusyAccesses : Prop :=
  ∀ s : State, s.rst = false → s.busy = true →
    (∀ off v, off % 4 = 0 → off = 0x00C ∨ off = 0x010 ∨ (0x020 ≤ off ∧ off < 0x060) ∨ (0x080 ≤ off ∧ off < 0x0C0) →
      hostWrite off 4 v s = .next { s with ovr := true }) ∧
    (∀ v, hostWrite 0x004 4 v s = .next { s with irqen := v.getLsbD 0 }) ∧
    (∀ v, ∃ t, hostWrite 0x008 4 v s = .next t ∧ t.done = (s.done && !v.getLsbD 1) ∧
      t.err = (s.err && !v.getLsbD 2) ∧ t.ovr = (s.ovr && !v.getLsbD 7)) ∧
    (∀ off v, off % 4 = 0 → off = 0x000 ∨ (0x014 ≤ off ∧ off < 0x020) ∨ (0x060 ≤ off ∧ off < 0x080) ∨
      (0x0C0 ≤ off ∧ off < 0x100) → hostWrite off 4 v s = .next s) ∧
    (∀ off k, off % 4 = 0 → off < 0x060 ∨ (0x0C0 ≤ off ∧ off < 0x100) →
      hostRead off 4 k s = k (regValue (regAt off) s) s) ∧
    (∀ off k, off % 4 = 0 → 0x060 ≤ off ∧ off < 0x0C0 →
      hostRead off 4 k s = k (Config.freeWord s.draws) { s with draws := s.draws + 1 }) ∧
    ∀ t, hostTurn s = .next t → t.key = s.key ∧ t.din = s.din ∧ t.S = s.S

/-- R46: while BUSY = 0 a CONFIG write of 0 to 4 takes the variant and returns PHASE to IDLE and SQZCNT to 0, and every other
value is refused with ERRCODE 3; a write while BUSY = 1 is dropped; bits 31:4 read 0; VARIANT is ESCH256 at reset. -/
def Obligations.ConfigWrite : Prop :=
  (∀ (v : Word) (s : State), s.rst = false →
    (s.busy = false → v.toNat ≤ 4 → ∃ V : Variant,
      [Variant.esch256, .esch384, .schwaemm128_128, .schwaemm192_192, .schwaemm256_128][v.toNat]? = some V ∧
      hostWrite 0x00C 4 v s = .next { s with variant := V, phase := .idle, sqzcnt := 0 } ∧
      configWord { s with variant := V } = v) ∧
    (s.busy = false → 4 < v.toNat → hostWrite 0x00C 4 v s = .next { s with err := true, errcode := .variant }) ∧
    (s.busy = true → hostWrite 0x00C 4 v s = .next { s with ovr := true })) ∧
  (∀ (k : Word → State → Out) (s : State), s.rst = false → hostRead 0x00C 4 k s = k (configWord s) s) ∧
  (∀ s : State, (configWord s).extractLsb' 4 28 = 0) ∧
  State.reset.variant = .esch256

/-- R38: the layout of STATUS, each field at its bits, with the numbers of every phase (R42) and error code (60_exceptions.md
R241); a write clears DONE, ERR with ERRCODE, and OVR where it has a 1, and changes nothing else, busy or not. -/
def Obligations.StatusRegister : Prop :=
  ([Phase.idle, .hEmpty, .hAbsorb, .hSqueeze, .hDone, .aReady, .aAd, .aAdDone, .aEnc, .aDec, .aEncDone, .aDecDone,
    .aDone].map Phase.code = [0, 1, 2, 3, 4, 5, 6, 7, 8, 9, 10, 11, 12]) ∧
  ([ErrCode.noError, .illegal, .len, .variant, .sequence].map ErrCode.code = [0, 1, 2, 3, 4]) ∧
  (∀ (k : Word → State → Out) (s : State), s.rst = false → hostRead 0x008 4 k s = k (statusWord s) s) ∧
  (∀ s : State,
    (statusWord s).getLsbD 0 = s.busy ∧ (statusWord s).getLsbD 1 = s.done ∧ (statusWord s).getLsbD 2 = s.err ∧
    (statusWord s).getLsbD 3 = s.verified ∧ (statusWord s).extractLsb' 4 3 = s.errcode.code ∧
    (statusWord s).getLsbD 7 = s.ovr ∧ (statusWord s).extractLsb' 8 4 = s.phase.code ∧
    (statusWord s).extractLsb' 12 4 = s.sqzcnt ∧ (statusWord s).extractLsb' 16 16 = 0) ∧
  statusWord State.reset = 0 ∧
  ∀ (v : Word) (s : State), s.rst = false →
    hostWrite 0x008 4 v s = .next
      { s with
        done := if v.getLsbD 1 then false else s.done
        err := if v.getLsbD 2 then false else s.err
        errcode := if v.getLsbD 2 then .noError else s.errcode
        ovr := if v.getLsbD 7 then false else s.ovr }

/-- R73: a reserved offset reads 0 and ignores writes, busy or not. -/
def Obligations.ReservedOffsets : Prop :=
  ∀ (off : Nat) (v : Word) (k : Word → State → Out) (s : State), s.rst = false → off % 4 = 0 →
    (0x014 ≤ off ∧ off < 0x020) ∨ (0x0C0 ≤ off ∧ off < 0x100) →
    hostRead off 4 k s = k 0 s ∧ hostWrite off 4 v s = .next s

/-- R36, R37 and R47: ID reads its constant and ignores writes; CTRL holds bit 0, and its other bits read 0; CMD reads 0, and
a write of it is a command while BUSY = 0 and dropped while BUSY = 1. -/
def Obligations.IdCtrlCmdRegisters : Prop :=
  State.reset.irqen = false ∧
  ∀ (v : Word) (k : Word → State → Out) (s : State), s.rst = false →
    hostRead 0x000 4 k s = k 0x53504B31 s ∧ hostWrite 0x000 4 v s = .next s ∧
    hostWrite 0x004 4 v s = .next { s with irqen := v.getLsbD 0 } ∧
    hostRead 0x004 4 k s = k (if s.irqen then 1 else 0) s ∧
    hostRead 0x010 4 k s = k 0 s ∧
    (s.busy = false → hostWrite 0x010 4 v s = .next { s with pending := some v, busy := true, done := false }) ∧
    (s.busy = true → hostWrite 0x010 4 v s = .next { s with ovr := true })

/-- R76 and R33, R34: while BUSY = 0, STATE, KEY and DIN read and write word by word; a write changes the one word and
nothing else. DOUT is read-only (R35). -/
def Obligations.DataWindows : Prop :=
  ∀ (i : Nat) (v : Word) (k : Word → State → Out) (s : State), s.rst = false → s.busy = false →
    (i < 16 → hostRead (0x080 + 4 * i) 4 k s = k (getW s.S i) s ∧
      hostWrite (0x080 + 4 * i) 4 v s = .next { s with S := setW s.S i v }) ∧
    (i < 8 → hostRead (0x020 + 4 * i) 4 k s = k (getW s.key i) s ∧
      hostWrite (0x020 + 4 * i) 4 v s = .next { s with key := setW s.key i v } ∧
      hostRead (0x040 + 4 * i) 4 k s = k (getW s.din i) s ∧
      hostWrite (0x040 + 4 * i) 4 v s = .next { s with din := setW s.din i v } ∧
      hostRead (0x060 + 4 * i) 4 k s = k (getW s.dout i) s ∧
      hostWrite (0x060 + 4 * i) 4 v s = .next s)

/-- R74 and R248: an access to the window that is not an aligned 32-bit one is refused, whatever the state; an access beyond
the window is a fault (log entry 7). -/
def Obligations.AccessesNotAdmitted : Prop :=
  ∀ (off width : Nat) (v : Word) (k : Word → State → Out) (s : State),
    (off < 0x100 → off % 4 ≠ 0 ∨ width ≠ 4 →
      hostRead off width k s = .refused (.accessNotAdmitted off width) ∧
      hostWrite off width v s = .refused (.accessNotAdmitted off width)) ∧
    (0x100 ≤ off →
      hostRead off width k s = .fault (.outsideWindow off) ∧ hostWrite off width v s = .fault (.outsideWindow off))

/-- A read changes nothing the spec knows of, whatever the register and the state: at most the model's count of free values
moves, and only while BUSY = 1 or rst is asserted (R75). -/
def Obligations.ReadsHaveNoEffect : Prop :=
  ∀ (r : Reg) (s : State),
    (readReg r s).2 = { s with draws := (readReg r s).2.draws } ∧
    (s.busy = false → s.rst = false → (readReg r s).2 = s)

/-- R49: irq is DONE AND IRQEN; a command's completion raises it where it is enabled, a STATUS write of bit 1 and an
accepted command lower it, and clearing IRQEN masks it without clearing DONE (R249). -/
def Obligations.InterruptLine : Prop :=
  (∀ s : State, irq s = (s.done && s.irqen)) ∧
  irq State.reset = false ∧
  (∀ (i : Instr) (s t : State), exec i s = .next t → irq t = s.irqen) ∧
  (∀ (v : Word) (s t : State), s.rst = false → v.getLsbD 1 = true → hostWrite 0x008 4 v s = .next t → irq t = false) ∧
  (∀ (w : Word) (s t : State), s.rst = false → s.busy = false → hostWrite 0x010 4 w s = .next t → irq t = false) ∧
  ∀ (v : Word) (s t : State), s.rst = false → v.getLsbD 0 = false → hostWrite 0x004 4 v s = .next t →
    irq t = false ∧ t.done = s.done

/-- While a command is in flight no move of the host changes what it reads or which command it is (R79, R87). -/
def Obligations.InFlightInputsFixed : Prop :=
  ∀ s t : State, s.busy = true → hostTurn s = .next t →
    t.S = s.S ∧ t.key = s.key ∧ t.din = s.din ∧ t.variant = s.variant ∧ t.phase = s.phase ∧ t.sqzcnt = s.sqzcnt ∧
    t.pending = s.pending ∧ t.busy = true

/-- What a host move changes, field by field, and by which access alone (R75, R76 to R79, R84): DOUT and VERIFIED never; S,
KEY and DIN by a write of their own window; PHASE, SQZCNT and VARIANT by a CONFIG write; IRQEN by a CTRL write; PENDING and
BUSY by a CMD write while BUSY = 0; DONE by that write, which clears it, or by a STATUS write of bit 1; OVR by a write that
is dropped while BUSY = 1, which sets it, or by a STATUS write of bit 7; ERR and ERRCODE by a CONFIG write while BUSY = 0,
which sets them, or by a STATUS write of bit 2. The host program loses at most its first statement. RD binds the value
read, and nothing else binds (30_encoding.md R111). -/
def Obligations.HostMoveFrame : Prop :=
  (∀ s t : State, hostTurn s = .next t →
    t.dout = s.dout ∧ t.verified = s.verified ∧ t.rst = s.rst ∧ t.turns = s.turns ∧
    (t.host = s.host ∨ t.host = s.host.tail) ∧
    (t.S ≠ s.S → ∃ off v rest, s.host = .write off 4 v :: rest ∧ 0x080 ≤ off ∧ off < 0x0C0) ∧
    (t.key ≠ s.key → ∃ off v rest, s.host = .write off 4 v :: rest ∧ 0x020 ≤ off ∧ off < 0x040) ∧
    (t.din ≠ s.din → ∃ off v rest, s.host = .write off 4 v :: rest ∧ 0x040 ≤ off ∧ off < 0x060) ∧
    (t.phase ≠ s.phase ∨ t.sqzcnt ≠ s.sqzcnt ∨ t.variant ≠ s.variant →
      ∃ v rest, s.host = .write 0x00C 4 v :: rest) ∧
    (t.irqen ≠ s.irqen → ∃ v rest, s.host = .write 0x004 4 v :: rest ∧ t.irqen = v.getLsbD 0) ∧
    (t.pending ≠ s.pending ∨ t.busy ≠ s.busy →
      ∃ v rest, s.host = .write 0x010 4 v :: rest ∧ s.busy = false ∧ t.pending = some v ∧ t.busy = true) ∧
    (t.done ≠ s.done → t.done = false ∧ ∃ v rest,
      (s.host = .write 0x010 4 v :: rest ∧ s.busy = false) ∨ (s.host = .write 0x008 4 v :: rest ∧ v.getLsbD 1 = true)) ∧
    (t.ovr ≠ s.ovr → ∃ off v rest, s.host = .write off 4 v :: rest ∧
      ((t.ovr = true ∧ s.busy = true ∧
          (off = 0x00C ∨ off = 0x010 ∨ (0x020 ≤ off ∧ off < 0x060) ∨ (0x080 ≤ off ∧ off < 0x0C0))) ∨
        (t.ovr = false ∧ off = 0x008 ∧ v.getLsbD 7 = true))) ∧
    (t.err ≠ s.err ∨ t.errcode ≠ s.errcode → ∃ off v rest, s.host = .write off 4 v :: rest ∧
      ((t.err = true ∧ t.errcode = .variant ∧ s.busy = false ∧ off = 0x00C ∧ 4 < v.toNat) ∨
        (t.err = false ∧ t.errcode = .noError ∧ off = 0x008 ∧ v.getLsbD 2 = true))) ∧
    (t.bound ≠ s.bound → ∃ off name v rest, s.host = .read off 4 name :: rest ∧ t.bound = (name, v) :: s.bound) ∧
    (t.draws ≠ s.draws → (∃ off name rest, s.host = .read off 4 name :: rest) ∨ ∃ rest, s.host = .poll :: rest)) ∧
  ∀ (off name : Nat) (rest : List HostStmt) (s : State), s.host = .read off 4 name :: rest → s.rst = false →
    off < 0x100 → off % 4 = 0 → (s.busy = true → off < 0x060 ∨ 0x0C0 ≤ off) →
    ∃ v, (∀ k : Word → State → Out, hostRead off 4 k s = k v s) ∧
      hostTurn s = .next { s with host := rest, bound := (name, v) :: s.bound }

/-- A host that keeps R283, R286 and R288, where rst is not asserted, never sets OVR and never draws a free value; in the
middle of an operation its moves change neither PHASE, SQZCNT, VARIANT nor S, from AEAD_INIT to the tag they do not change
KEY, and no PERM is accepted. Which phases are the middle of an operation is the model's reading: log entry 16. -/
def Obligations.DisciplinedHost : Prop :=
  ∀ s t : State, s.rst = false → hostDisciplined s = true → hostTurn s = .next t →
    t.draws = s.draws ∧ (t.ovr = true → s.ovr = true) ∧
    (midOperation s.phase = true →
      t.phase = s.phase ∧ t.sqzcnt = s.sqzcnt ∧ t.variant = s.variant ∧ t.S = s.S ∧
      ∀ (w : Word) (nb : BitVec 2) (steps : BitVec 5), t.pending ≠ s.pending → t.pending = some w →
        decode w ≠ .ok (.perm nb steps)) ∧
    (keyHeld s.phase = true → t.key = s.key)

/-! Reset and whole runs. -/

/-- Reset (R280, R50): while rst is asserted the engine does not move, writes have no effect and every read returns any
value; asserting it abandons the command in flight; deasserting it leaves every register at its reset value. -/
def Obligations.ResetEvent : Prop :=
  (∀ s : State, s.rst = true → engineTurn s = .next s ∧ (∀ r v, writeReg r v s = s) ∧
    ∀ r, readReg r s = (Config.freeWord s.draws, { s with draws := s.draws + 1 })) ∧
  (∀ (s : State) (rest : List Turn), s.turns = .rst true :: rest →
    ∃ t, step s = .next t ∧ t.rst = true ∧ t.pending = none ∧ t.busy = false) ∧
  ∀ (s : State) (rest : List Turn), s.rst = true → s.turns = .rst false :: rest →
    ∃ t, step s = .next t ∧ (∀ k, getW t.S k = 0) ∧
      (∀ k, getW t.key k = 0 ∧ getW t.din k = 0 ∧ getW t.dout k = 0) ∧
      t.irqen = false ∧ statusWord t = 0 ∧ t.variant = .esch256 ∧ t.pending = none ∧ t.rst = false ∧ irq t = false

/-- The state after reset holds the values of R50. -/
def Obligations.ResetValues : Prop :=
  (∀ k, getW State.reset.S k = 0) ∧
  (∀ k, getW State.reset.key k = 0 ∧ getW State.reset.din k = 0 ∧ getW State.reset.dout k = 0) ∧
  ctrlWord State.reset = 0 ∧ statusWord State.reset = 0 ∧ configWord State.reset = 0 ∧
  State.reset.pending = none ∧ irq State.reset = false

/-- The invariant holds at reset. -/
def Obligations.ResetInvariant : Prop := Invariant State.reset

/-- Every step keeps the invariant: BUSY and PENDING agree, a command in flight has DONE = 0, ERR and ERRCODE agree, the
phase belongs to the configured variant, and SQZCNT fits the phase; whatever the host, its order against the engine and
rst do. -/
def Obligations.StepKeepsInvariant : Prop :=
  ∀ s t : State, Invariant s → step s = .next t → Invariant t

/-- R41: a refused command and a refused CONFIG write set ERR and the code, whatever they held; a performed command leaves
them; a STATUS write of bit 2 clears both, and nothing else but reset clears them. That the deassertion of rst clears them,
and its assertion does not, is the model's choice: log entry 5. -/
def Obligations.ErrRules : Prop :=
  (∀ (s : State) (w : Word), s.busy = true → s.rst = false → s.pending = some w →
    ∃ t, engineTurn s = .next t ∧
      (checkWord w s.variant s.phase ≠ .noError → t.err = true ∧ t.errcode = checkWord w s.variant s.phase) ∧
      (checkWord w s.variant s.phase = .noError → t.err = s.err ∧ t.errcode = s.errcode)) ∧
  (∀ (v : Word) (s : State), s.rst = false → s.busy = false → 4 < v.toNat →
    ∃ t, hostWrite 0x00C 4 v s = .next t ∧ t.err = true ∧ t.errcode.code = 3) ∧
  (∀ (v : Word) (s : State), s.rst = false → v.getLsbD 2 = true →
    ∃ t, hostWrite 0x008 4 v s = .next t ∧ t.err = false ∧ t.errcode.code = 0) ∧
  ∀ s t : State, step s = .next t →
    (s.err = true ∧ t.err = false) ∨ (s.errcode ≠ .noError ∧ t.errcode = .noError) →
    (∃ v rest, s.host = .write 0x008 4 v :: rest ∧ v.getLsbD 2 = true) ∨
    (∃ rest, s.turns = .rst false :: rest ∧ s.rst = true)

/-- The machine stops on host accesses only: while every access of the host program is admitted, each step answers a next
state, whose host program is admitted again. -/
def Obligations.StepNeverStops : Prop :=
  ∀ s : State, HostAdmitted s → ∃ t, step s = .next t ∧ HostAdmitted t
end

