-- ==== Sys2Proof/Laws/State.lean ====
section
/-! SUPPORT. One lemma per field for each shared update of the state: what the update leaves in that field. -/

namespace Sys2Proof.Machine

/-! Acceptance (20_memory.md R77). -/

@[simp] theorem accept_S (w : Word) (s : State) : (accept w s).S = s.S := rfl
@[simp] theorem accept_key (w : Word) (s : State) : (accept w s).key = s.key := rfl
@[simp] theorem accept_din (w : Word) (s : State) : (accept w s).din = s.din := rfl
@[simp] theorem accept_dout (w : Word) (s : State) : (accept w s).dout = s.dout := rfl
@[simp] theorem accept_irqen (w : Word) (s : State) : (accept w s).irqen = s.irqen := rfl
@[simp] theorem accept_busy (w : Word) (s : State) : (accept w s).busy = true := rfl
@[simp] theorem accept_done (w : Word) (s : State) : (accept w s).done = false := rfl
@[simp] theorem accept_err (w : Word) (s : State) : (accept w s).err = s.err := rfl
@[simp] theorem accept_verified (w : Word) (s : State) : (accept w s).verified = s.verified := rfl
@[simp] theorem accept_errcode (w : Word) (s : State) : (accept w s).errcode = s.errcode := rfl
@[simp] theorem accept_ovr (w : Word) (s : State) : (accept w s).ovr = s.ovr := rfl
@[simp] theorem accept_phase (w : Word) (s : State) : (accept w s).phase = s.phase := rfl
@[simp] theorem accept_sqzcnt (w : Word) (s : State) : (accept w s).sqzcnt = s.sqzcnt := rfl
@[simp] theorem accept_variant (w : Word) (s : State) : (accept w s).variant = s.variant := rfl
@[simp] theorem accept_pending (w : Word) (s : State) : (accept w s).pending = some w := rfl
@[simp] theorem accept_rst (w : Word) (s : State) : (accept w s).rst = s.rst := rfl
@[simp] theorem accept_host (w : Word) (s : State) : (accept w s).host = s.host := rfl
@[simp] theorem accept_bound (w : Word) (s : State) : (accept w s).bound = s.bound := rfl
@[simp] theorem accept_turns (w : Word) (s : State) : (accept w s).turns = s.turns := rfl
@[simp] theorem accept_draws (w : Word) (s : State) : (accept w s).draws = s.draws := rfl

/-! Completion (20_memory.md R78). -/

@[simp] theorem complete_S (s : State) : (complete s).S = s.S := rfl
@[simp] theorem complete_key (s : State) : (complete s).key = s.key := rfl
@[simp] theorem complete_din (s : State) : (complete s).din = s.din := rfl
@[simp] theorem complete_dout (s : State) : (complete s).dout = s.dout := rfl
@[simp] theorem complete_irqen (s : State) : (complete s).irqen = s.irqen := rfl
@[simp] theorem complete_busy (s : State) : (complete s).busy = false := rfl
@[simp] theorem complete_done (s : State) : (complete s).done = true := rfl
@[simp] theorem complete_err (s : State) : (complete s).err = s.err := rfl
@[simp] theorem complete_verified (s : State) : (complete s).verified = s.verified := rfl
@[simp] theorem complete_errcode (s : State) : (complete s).errcode = s.errcode := rfl
@[simp] theorem complete_ovr (s : State) : (complete s).ovr = s.ovr := rfl
@[simp] theorem complete_phase (s : State) : (complete s).phase = s.phase := rfl
@[simp] theorem complete_sqzcnt (s : State) : (complete s).sqzcnt = s.sqzcnt := rfl
@[simp] theorem complete_variant (s : State) : (complete s).variant = s.variant := rfl
@[simp] theorem complete_pending (s : State) : (complete s).pending = none := rfl
@[simp] theorem complete_rst (s : State) : (complete s).rst = s.rst := rfl
@[simp] theorem complete_host (s : State) : (complete s).host = s.host := rfl
@[simp] theorem complete_bound (s : State) : (complete s).bound = s.bound := rfl
@[simp] theorem complete_turns (s : State) : (complete s).turns = s.turns := rfl
@[simp] theorem complete_draws (s : State) : (complete s).draws = s.draws := rfl

/-! Refusal (60_exceptions.md R246). -/

@[simp] theorem refuse_S (c : ErrCode) (s : State) : (refuse c s).S = s.S := rfl
@[simp] theorem refuse_key (c : ErrCode) (s : State) : (refuse c s).key = s.key := rfl
@[simp] theorem refuse_din (c : ErrCode) (s : State) : (refuse c s).din = s.din := rfl
@[simp] theorem refuse_dout (c : ErrCode) (s : State) : (refuse c s).dout = s.dout := rfl
@[simp] theorem refuse_irqen (c : ErrCode) (s : State) : (refuse c s).irqen = s.irqen := rfl
@[simp] theorem refuse_busy (c : ErrCode) (s : State) : (refuse c s).busy = false := rfl
@[simp] theorem refuse_done (c : ErrCode) (s : State) : (refuse c s).done = true := rfl
@[simp] theorem refuse_err (c : ErrCode) (s : State) : (refuse c s).err = true := rfl
@[simp] theorem refuse_verified (c : ErrCode) (s : State) : (refuse c s).verified = s.verified := rfl
@[simp] theorem refuse_errcode (c : ErrCode) (s : State) : (refuse c s).errcode = c := rfl
@[simp] theorem refuse_ovr (c : ErrCode) (s : State) : (refuse c s).ovr = s.ovr := rfl
@[simp] theorem refuse_phase (c : ErrCode) (s : State) : (refuse c s).phase = s.phase := rfl
@[simp] theorem refuse_sqzcnt (c : ErrCode) (s : State) : (refuse c s).sqzcnt = s.sqzcnt := rfl
@[simp] theorem refuse_variant (c : ErrCode) (s : State) : (refuse c s).variant = s.variant := rfl
@[simp] theorem refuse_pending (c : ErrCode) (s : State) : (refuse c s).pending = none := rfl
@[simp] theorem refuse_rst (c : ErrCode) (s : State) : (refuse c s).rst = s.rst := rfl
@[simp] theorem refuse_host (c : ErrCode) (s : State) : (refuse c s).host = s.host := rfl
@[simp] theorem refuse_bound (c : ErrCode) (s : State) : (refuse c s).bound = s.bound := rfl
@[simp] theorem refuse_turns (c : ErrCode) (s : State) : (refuse c s).turns = s.turns := rfl
@[simp] theorem refuse_draws (c : ErrCode) (s : State) : (refuse c s).draws = s.draws := rfl

/-! The dropped write (20_memory.md R79). -/

@[simp] theorem dropWrite_S (s : State) : (dropWrite s).S = s.S := rfl
@[simp] theorem dropWrite_key (s : State) : (dropWrite s).key = s.key := rfl
@[simp] theorem dropWrite_din (s : State) : (dropWrite s).din = s.din := rfl
@[simp] theorem dropWrite_dout (s : State) : (dropWrite s).dout = s.dout := rfl
@[simp] theorem dropWrite_irqen (s : State) : (dropWrite s).irqen = s.irqen := rfl
@[simp] theorem dropWrite_busy (s : State) : (dropWrite s).busy = s.busy := rfl
@[simp] theorem dropWrite_done (s : State) : (dropWrite s).done = s.done := rfl
@[simp] theorem dropWrite_err (s : State) : (dropWrite s).err = s.err := rfl
@[simp] theorem dropWrite_verified (s : State) : (dropWrite s).verified = s.verified := rfl
@[simp] theorem dropWrite_errcode (s : State) : (dropWrite s).errcode = s.errcode := rfl
@[simp] theorem dropWrite_ovr (s : State) : (dropWrite s).ovr = true := rfl
@[simp] theorem dropWrite_phase (s : State) : (dropWrite s).phase = s.phase := rfl
@[simp] theorem dropWrite_sqzcnt (s : State) : (dropWrite s).sqzcnt = s.sqzcnt := rfl
@[simp] theorem dropWrite_variant (s : State) : (dropWrite s).variant = s.variant := rfl
@[simp] theorem dropWrite_pending (s : State) : (dropWrite s).pending = s.pending := rfl
@[simp] theorem dropWrite_rst (s : State) : (dropWrite s).rst = s.rst := rfl
@[simp] theorem dropWrite_host (s : State) : (dropWrite s).host = s.host := rfl
@[simp] theorem dropWrite_bound (s : State) : (dropWrite s).bound = s.bound := rfl
@[simp] theorem dropWrite_turns (s : State) : (dropWrite s).turns = s.turns := rfl
@[simp] theorem dropWrite_draws (s : State) : (dropWrite s).draws = s.draws := rfl

/-! The free value. -/

@[simp] theorem drawAny_snd_S (s : State) : ((drawAny s).2).S = s.S := rfl
@[simp] theorem drawAny_snd_key (s : State) : ((drawAny s).2).key = s.key := rfl
@[simp] theorem drawAny_snd_din (s : State) : ((drawAny s).2).din = s.din := rfl
@[simp] theorem drawAny_snd_dout (s : State) : ((drawAny s).2).dout = s.dout := rfl
@[simp] theorem drawAny_snd_irqen (s : State) : ((drawAny s).2).irqen = s.irqen := rfl
@[simp] theorem drawAny_snd_busy (s : State) : ((drawAny s).2).busy = s.busy := rfl
@[simp] theorem drawAny_snd_done (s : State) : ((drawAny s).2).done = s.done := rfl
@[simp] theorem drawAny_snd_err (s : State) : ((drawAny s).2).err = s.err := rfl
@[simp] theorem drawAny_snd_verified (s : State) : ((drawAny s).2).verified = s.verified := rfl
@[simp] theorem drawAny_snd_errcode (s : State) : ((drawAny s).2).errcode = s.errcode := rfl
@[simp] theorem drawAny_snd_ovr (s : State) : ((drawAny s).2).ovr = s.ovr := rfl
@[simp] theorem drawAny_snd_phase (s : State) : ((drawAny s).2).phase = s.phase := rfl
@[simp] theorem drawAny_snd_sqzcnt (s : State) : ((drawAny s).2).sqzcnt = s.sqzcnt := rfl
@[simp] theorem drawAny_snd_variant (s : State) : ((drawAny s).2).variant = s.variant := rfl
@[simp] theorem drawAny_snd_pending (s : State) : ((drawAny s).2).pending = s.pending := rfl
@[simp] theorem drawAny_snd_rst (s : State) : ((drawAny s).2).rst = s.rst := rfl
@[simp] theorem drawAny_snd_host (s : State) : ((drawAny s).2).host = s.host := rfl
@[simp] theorem drawAny_snd_bound (s : State) : ((drawAny s).2).bound = s.bound := rfl
@[simp] theorem drawAny_snd_turns (s : State) : ((drawAny s).2).turns = s.turns := rfl
@[simp] theorem drawAny_snd_draws (s : State) : ((drawAny s).2).draws = s.draws + 1 := rfl

@[simp] theorem drawAny_fst (s : State) : (drawAny s).1 = Config.freeWord s.draws := rfl

/-! Reset of the block (10_state.md R50). -/

@[simp] theorem resetBlock_S (s : State) : (resetBlock s).S = State.reset.S := rfl
@[simp] theorem resetBlock_key (s : State) : (resetBlock s).key = State.reset.key := rfl
@[simp] theorem resetBlock_din (s : State) : (resetBlock s).din = State.reset.din := rfl
@[simp] theorem resetBlock_dout (s : State) : (resetBlock s).dout = State.reset.dout := rfl
@[simp] theorem resetBlock_irqen (s : State) : (resetBlock s).irqen = State.reset.irqen := rfl
@[simp] theorem resetBlock_busy (s : State) : (resetBlock s).busy = State.reset.busy := rfl
@[simp] theorem resetBlock_done (s : State) : (resetBlock s).done = State.reset.done := rfl
@[simp] theorem resetBlock_err (s : State) : (resetBlock s).err = State.reset.err := rfl
@[simp] theorem resetBlock_verified (s : State) : (resetBlock s).verified = State.reset.verified := rfl
@[simp] theorem resetBlock_errcode (s : State) : (resetBlock s).errcode = State.reset.errcode := rfl
@[simp] theorem resetBlock_ovr (s : State) : (resetBlock s).ovr = State.reset.ovr := rfl
@[simp] theorem resetBlock_phase (s : State) : (resetBlock s).phase = State.reset.phase := rfl
@[simp] theorem resetBlock_sqzcnt (s : State) : (resetBlock s).sqzcnt = State.reset.sqzcnt := rfl
@[simp] theorem resetBlock_variant (s : State) : (resetBlock s).variant = State.reset.variant := rfl
@[simp] theorem resetBlock_pending (s : State) : (resetBlock s).pending = State.reset.pending := rfl
@[simp] theorem resetBlock_rst (s : State) : (resetBlock s).rst = State.reset.rst := rfl
@[simp] theorem resetBlock_host (s : State) : (resetBlock s).host = s.host := rfl
@[simp] theorem resetBlock_bound (s : State) : (resetBlock s).bound = s.bound := rfl
@[simp] theorem resetBlock_turns (s : State) : (resetBlock s).turns = s.turns := rfl
@[simp] theorem resetBlock_draws (s : State) : (resetBlock s).draws = s.draws := rfl

/-! A write of STATUS (10_state.md R38). -/

@[simp] theorem writeStatus_S (v : Word) (s : State) : (writeStatus v s).S = s.S := rfl
@[simp] theorem writeStatus_key (v : Word) (s : State) : (writeStatus v s).key = s.key := rfl
@[simp] theorem writeStatus_din (v : Word) (s : State) : (writeStatus v s).din = s.din := rfl
@[simp] theorem writeStatus_dout (v : Word) (s : State) : (writeStatus v s).dout = s.dout := rfl
@[simp] theorem writeStatus_irqen (v : Word) (s : State) : (writeStatus v s).irqen = s.irqen := rfl
@[simp] theorem writeStatus_busy (v : Word) (s : State) : (writeStatus v s).busy = s.busy := rfl
@[simp] theorem writeStatus_done (v : Word) (s : State) : (writeStatus v s).done = (s.done && !v.getLsbD 1) := rfl
@[simp] theorem writeStatus_err (v : Word) (s : State) : (writeStatus v s).err = (s.err && !v.getLsbD 2) := rfl
@[simp] theorem writeStatus_verified (v : Word) (s : State) : (writeStatus v s).verified = s.verified := rfl
@[simp] theorem writeStatus_errcode (v : Word) (s : State) : (writeStatus v s).errcode = if v.getLsbD 2 then .noError else s.errcode := rfl
@[simp] theorem writeStatus_ovr (v : Word) (s : State) : (writeStatus v s).ovr = (s.ovr && !v.getLsbD 7) := rfl
@[simp] theorem writeStatus_phase (v : Word) (s : State) : (writeStatus v s).phase = s.phase := rfl
@[simp] theorem writeStatus_sqzcnt (v : Word) (s : State) : (writeStatus v s).sqzcnt = s.sqzcnt := rfl
@[simp] theorem writeStatus_variant (v : Word) (s : State) : (writeStatus v s).variant = s.variant := rfl
@[simp] theorem writeStatus_pending (v : Word) (s : State) : (writeStatus v s).pending = s.pending := rfl
@[simp] theorem writeStatus_rst (v : Word) (s : State) : (writeStatus v s).rst = s.rst := rfl
@[simp] theorem writeStatus_host (v : Word) (s : State) : (writeStatus v s).host = s.host := rfl
@[simp] theorem writeStatus_bound (v : Word) (s : State) : (writeStatus v s).bound = s.bound := rfl
@[simp] theorem writeStatus_turns (v : Word) (s : State) : (writeStatus v s).turns = s.turns := rfl
@[simp] theorem writeStatus_draws (v : Word) (s : State) : (writeStatus v s).draws = s.draws := rfl

/-! Placing a command (log entry 2). -/

@[simp] theorem placeCommand_S (w : Word) (s : State) : (placeCommand w s).S = s.S := rfl
@[simp] theorem placeCommand_key (w : Word) (s : State) : (placeCommand w s).key = s.key := rfl
@[simp] theorem placeCommand_din (w : Word) (s : State) : (placeCommand w s).din = s.din := rfl
@[simp] theorem placeCommand_dout (w : Word) (s : State) : (placeCommand w s).dout = s.dout := rfl
@[simp] theorem placeCommand_irqen (w : Word) (s : State) : (placeCommand w s).irqen = s.irqen := rfl
@[simp] theorem placeCommand_busy (w : Word) (s : State) : (placeCommand w s).busy = true := rfl
@[simp] theorem placeCommand_done (w : Word) (s : State) : (placeCommand w s).done = false := rfl
@[simp] theorem placeCommand_err (w : Word) (s : State) : (placeCommand w s).err = s.err := rfl
@[simp] theorem placeCommand_verified (w : Word) (s : State) : (placeCommand w s).verified = s.verified := rfl
@[simp] theorem placeCommand_errcode (w : Word) (s : State) : (placeCommand w s).errcode = s.errcode := rfl
@[simp] theorem placeCommand_ovr (w : Word) (s : State) : (placeCommand w s).ovr = s.ovr := rfl
@[simp] theorem placeCommand_phase (w : Word) (s : State) : (placeCommand w s).phase = s.phase := rfl
@[simp] theorem placeCommand_sqzcnt (w : Word) (s : State) : (placeCommand w s).sqzcnt = s.sqzcnt := rfl
@[simp] theorem placeCommand_variant (w : Word) (s : State) : (placeCommand w s).variant = s.variant := rfl
@[simp] theorem placeCommand_pending (w : Word) (s : State) : (placeCommand w s).pending = some w := rfl
@[simp] theorem placeCommand_rst (w : Word) (s : State) : (placeCommand w s).rst = false := rfl
@[simp] theorem placeCommand_host (w : Word) (s : State) : (placeCommand w s).host = s.host := rfl
@[simp] theorem placeCommand_bound (w : Word) (s : State) : (placeCommand w s).bound = s.bound := rfl
@[simp] theorem placeCommand_turns (w : Word) (s : State) : (placeCommand w s).turns = .engine :: s.turns := rfl
@[simp] theorem placeCommand_draws (w : Word) (s : State) : (placeCommand w s).draws = s.draws := rfl

end Sys2Proof.Machine
end

