-- ==== Sys2Proof/Laws/Exec.lean ====
section
/-! SUPPORT. What a command can do, said once: `exec` is the completion step of its check and its effect; it never stops. -/

namespace Sys2Proof.Machine

theorem performCmd_admitted (effect : State → State) (s : State) :
    performCmd .noError effect s = .next (complete (effect s)) := by simp [performCmd]

theorem performCmd_refused {c : ErrCode} (h : c ≠ .noError) (effect : State → State) (s : State) :
    performCmd c effect s = .next (refuse c s) := by simp [performCmd, h]

/-- If the completion step answers a next state, the command was performed or refused. -/
theorem performCmd_next {c : ErrCode} {effect : State → State} {s t : State} (h : performCmd c effect s = .next t) :
    (c = .noError ∧ t = complete (effect s)) ∨ (c ≠ .noError ∧ t = refuse c s) := by
  unfold performCmd at h
  split at h <;> cases h
  · exact .inl ⟨‹_›, rfl⟩
  · exact .inr ⟨‹_›, rfl⟩

/-- The check of each command (60_exceptions.md R242). -/
def execCheck (i : Instr) (s : State) : ErrCode :=
  match i with
  | .nop => .noError
  | .clear => .noError
  | .perm nb _ => if (branchCount nb).isSome then .noError else .illegal
  | .hashInit => checkAll s.variant.isEsch true true
  | .hashAbsorb => checkAll s.variant.isEsch (s.phase ∈ [.hEmpty, .hAbsorb]) true
  | .hashLast len => checkAll s.variant.isEsch (s.phase ∈ [.hEmpty, .hAbsorb]) (hashLenOk s.phase len)
  | .hashSqueeze => checkAll s.variant.isEsch (s.phase ∈ [.hSqueeze]) true
  | .aeadInit => checkAll s.variant.isSchwaemm true true
  | .aeadAd => checkAll s.variant.isSchwaemm (s.phase ∈ [.aReady, .aAd]) true
  | .aeadAdLast len => checkAll s.variant.isSchwaemm (s.phase ∈ [.aReady, .aAd]) (aeadLenOk s.variant len)
  | .aeadEnc => checkAll s.variant.isSchwaemm (s.phase ∈ [.aReady, .aAdDone, .aEnc]) true
  | .aeadEncLast len =>
    checkAll s.variant.isSchwaemm (s.phase ∈ [.aReady, .aAdDone, .aEnc]) (aeadLenOk s.variant len)
  | .aeadDec => checkAll s.variant.isSchwaemm (s.phase ∈ [.aReady, .aAdDone, .aDec]) true
  | .aeadDecLast len =>
    checkAll s.variant.isSchwaemm (s.phase ∈ [.aReady, .aAdDone, .aDec]) (aeadLenOk s.variant len)
  | .aeadTag => checkAll s.variant.isSchwaemm (s.phase ∈ [.aReady, .aAdDone, .aEncDone]) true
  | .aeadVerify => checkAll s.variant.isSchwaemm (s.phase ∈ [.aReady, .aAdDone, .aDecDone]) true

/-- Execute of each command (20_memory.md R78). -/
def execEffect (i : Instr) (s : State) : State :=
  match i with
  | .nop => s
  | .clear => clearEffect s
  | .perm nb steps => { s with S := sparkle ((branchCount nb).getD 0) steps.toNat s.S }
  | .hashInit => { s with S := zeros 16, dout := zeros 8, phase := .hEmpty, sqzcnt := 0 }
  | .hashAbsorb => { s with S := absorbHash s.variant (blockWords 4 s.din) s.S, phase := .hAbsorb }
  | .hashLast len =>
    { s with
      S := absorbLastHash s.variant (blockBytes len.toNat s.din) s.S
      phase := .hSqueeze
      sqzcnt := 0 }
  | .hashSqueeze => squeezeEffect s
  | .aeadInit => aeadInitEffect s
  | .aeadAd => { s with S := absorbBlock s.variant (blockWords s.variant.R s.din) s.S, phase := .aAd }
  | .aeadAdLast len =>
    { s with
      S := absorbLastBlock s.variant (blockBytes len.toNat s.din) (markLastAd s.variant len.toNat s.S)
      phase := .aAdDone }
  | .aeadEnc => aeadEncEffect s
  | .aeadEncLast len => aeadEncLastEffect len s
  | .aeadDec => aeadDecEffect s
  | .aeadDecLast len => aeadDecLastEffect len s
  | .aeadTag => aeadTagEffect s
  | .aeadVerify => aeadVerifyEffect s

/-- Every command is the completion step of its check and its effect. -/
theorem exec_eq (i : Instr) (s : State) : exec i s = performCmd (execCheck i s) (execEffect i) s := by
  cases i with
  | perm nb steps =>
    simp only [exec, execPerm, execCheck]
    cases h : branchCount nb with
    | none => rfl
    | some b => simp [performCmd, execEffect, h]
  | _ => rfl

/-- What `exec` can answer: the performed state or the refused one, never a stop. -/
theorem exec_cases (i : Instr) (s : State) :
    (execCheck i s = .noError ∧ exec i s = .next (complete (execEffect i s))) ∨
    (execCheck i s ≠ .noError ∧ exec i s = .next (refuse (execCheck i s) s)) := by
  rw [exec_eq]
  by_cases h : execCheck i s = .noError
  · exact .inl ⟨h, by rw [h, performCmd_admitted]⟩
  · exact .inr ⟨h, performCmd_refused h _ s⟩

/-- The check of a legal word in the order of 60_exceptions.md R242. -/
theorem checkAll_eq_noError {v p l : Bool} : checkAll v p l = .noError ↔ v = true ∧ p = true ∧ l = true := by
  cases v <;> cases p <;> cases l <;> simp [checkAll]

end Sys2Proof.Machine
end

