-- ==== Sys2Proof/Laws/Operands.lean ====
section
/-! SUPPORT. The laws of word files: what a word reads as after a write, a fill or a settling, and that files with equal
words are equal. -/

namespace Sys2Proof.Machine

theorem getW_eq_getElem {n : Nat} (v : Vector Word n) (i : Nat) (h : i < n) : getW v i = v[i] := by
  simp [getW, List.getD, h]

theorem getW_out {n : Nat} (v : Vector Word n) (i : Nat) (h : n ≤ i) : getW v i = 0 := by
  simp [getW, List.getD, h]

/-- Two files with the same words are the same file. -/
theorem file_ext {n : Nat} {v w : Vector Word n} (h : ∀ i < n, getW v i = getW w i) : v = w := by
  apply Vector.ext
  intro i hi
  rw [← getW_eq_getElem v i hi, ← getW_eq_getElem w i hi, h i hi]

@[simp] theorem getW_setW_same {n : Nat} (v : Vector Word n) (i : Nat) (x : Word) (h : i < n) :
    getW (setW v i x) i = x := by
  simp [getW_eq_getElem _ _ h, setW]

@[simp] theorem getW_setW_other {n : Nat} (v : Vector Word n) (i j : Nat) (x : Word) (h : i ≠ j) :
    getW (setW v i x) j = getW v j := by
  by_cases hj : j < n
  · simp [getW_eq_getElem _ _ hj, setW, h]
  · rw [getW_out _ _ (by omega), getW_out _ _ (by omega)]

theorem getW_setW {n : Nat} (v : Vector Word n) (i j : Nat) (x : Word) (hj : j < n) :
    getW (setW v i x) j = if i = j then x else getW v j := by
  split
  · next h => subst h; exact getW_setW_same v i x hj
  · next h => exact getW_setW_other v i j x h

theorem getW_fileOf {n : Nat} (f : Nat → Word) (i : Nat) (h : i < n) : getW (fileOf n f) i = f i := by
  simp [getW_eq_getElem _ _ h, fileOf]

theorem getW_fill {n : Nat} (v : Vector Word n) (lo count : Nat) (f : Nat → Word) (i : Nat) (h : i < n) :
    getW (fill v lo count f) i = if lo ≤ i ∧ i < lo + count then f (i - lo) else getW v i := by
  simp [getW_eq_getElem _ _ h, fill]

@[simp] theorem getW_zeros {n : Nat} (i : Nat) : getW (zeros n) i = 0 := by
  by_cases h : i < n
  · simp [getW_eq_getElem _ _ h, zeros]
  · exact getW_out _ _ (by omega)

/-- Rebuilding a file from its words changes nothing. -/
theorem fileOf_getW {n : Nat} (v : Vector Word n) : fileOf n (getW v) = v :=
  file_ext fun i h => getW_fileOf (getW v) i h

@[simp] theorem settleFile_eq {α : Type} (v : Vector Word 16) (k : Vector Word 16 → α) : settleFile v k = k v := by
  simp only [settleFile, settleList_eq]
  exact congrArg k (fileOf_getW v)

end Sys2Proof.Machine
end

