-- ==== Sys2Proof/Laws/PerInstr.lean ====
section
/-! SUPPORT. The fields of a packed word, and the per-instruction statement over the syntax: the fields of every encoding
(30_encoding.md R100, R105). -/

namespace Sys2Proof.Laws

variable (op : BitVec 5) (len : BitVec 6) (nb : BitVec 2) (steps : BitVec 5)

/-- Bit `j` of a packed word, field by field (R100). -/
theorem packWord_bit (j : Nat) : (packWord op len nb steps).getLsbD j =
    if j < 5 then op.getLsbD j
    else if j < 8 then false
    else if j < 14 then len.getLsbD (j - 8)
    else if j < 16 then nb.getLsbD (j - 14)
    else steps.getLsbD (j - 16) := by
  have e (a b c : Nat) : a - b - c = a - (b + c) := Nat.sub_sub a b c
  simp only [packWord, BitVec.getLsbD_append, e]
  rcases Nat.lt_or_ge j 5 with h | h
  · simp only [h, if_true]
  rcases Nat.lt_or_ge j 8 with h8 | h8
  · simp [show ¬ j < 5 by omega, show j - 5 < 3 by omega, h8]
  rcases Nat.lt_or_ge j 14 with h14 | h14
  · simp [show ¬ j < 5 by omega, show ¬ j - 5 < 3 by omega, show j - 8 < 6 by omega, show ¬ j < 8 by omega, h14]
  rcases Nat.lt_or_ge j 16 with h16 | h16
  · simp [show ¬ j < 5 by omega, show ¬ j - 5 < 3 by omega, show ¬ j - 8 < 6 by omega, show ¬ j < 8 by omega,
      show j - 14 < 2 by omega, show ¬ j < 14 by omega, h16]
  rcases Nat.lt_or_ge j 21 with h21 | h21
  · simp [show ¬ j < 5 by omega, show ¬ j - 5 < 3 by omega, show ¬ j - 8 < 6 by omega, show ¬ j < 8 by omega,
      show ¬ j - 14 < 2 by omega, show ¬ j < 14 by omega, show ¬ j < 16 by omega, show j - 16 < 5 by omega]
  · simp [show ¬ j < 5 by omega, show ¬ j - 5 < 3 by omega, show ¬ j - 8 < 6 by omega, show ¬ j < 8 by omega,
      show ¬ j - 14 < 2 by omega, show ¬ j < 14 by omega, show ¬ j < 16 by omega, show ¬ j - 16 < 5 by omega,
      BitVec.getLsbD_of_ge steps (j - 16) (by omega)]

theorem packWord_opField : opField (packWord op len nb steps) = op := by
  apply BitVec.eq_of_getLsbD_eq
  intro j hj
  simp [opField, packWord_bit, hj]

theorem packWord_lowReserved : lowReserved (packWord op len nb steps) = 0 := by
  apply BitVec.eq_of_getLsbD_eq
  intro j hj
  simp [lowReserved, packWord_bit, hj, show ¬ 5 + j < 5 by omega, show 5 + j < 8 by omega]

theorem packWord_lenField : lenField (packWord op len nb steps) = len := by
  apply BitVec.eq_of_getLsbD_eq
  intro j hj
  simp [lenField, packWord_bit, hj, show ¬ 8 + j < 5 by omega, show ¬ 8 + j < 8 by omega, show 8 + j < 14 by omega]

theorem packWord_nbField : nbField (packWord op len nb steps) = nb := by
  apply BitVec.eq_of_getLsbD_eq
  intro j hj
  simp [nbField, packWord_bit, hj, show ¬ 14 + j < 5 by omega, show ¬ 14 + j < 8 by omega,
    show ¬ 14 + j < 14 by omega, show 14 + j < 16 by omega]

theorem packWord_stepsField : stepsField (packWord op len nb steps) = steps := by
  apply BitVec.eq_of_getLsbD_eq
  intro j hj
  simp [stepsField, packWord_bit, hj, show ¬ 16 + j < 5 by omega, show ¬ 16 + j < 8 by omega,
    show ¬ 16 + j < 14 by omega, show ¬ 16 + j < 16 by omega]

theorem packWord_highReserved : highReserved (packWord op len nb steps) = 0 := by
  apply BitVec.eq_of_getLsbD_eq
  intro j hj
  simp [highReserved, packWord_bit, show ¬ 21 + j < 5 by omega, show ¬ 21 + j < 8 by omega,
    show ¬ 21 + j < 14 by omega, show ¬ 21 + j < 16 by omega]
  intro _
  exact BitVec.getLsbD_of_ge _ _ (by omega)

/-- The reserved bits of a command's word are 0, and a field the command does not use is 0. -/
def EncodedFields.Statement (i : Instr) : Prop :=
  lowReserved (encode i) = 0 ∧ highReserved (encode i) = 0 ∧
  (i.usesLen = false → lenField (encode i) = 0) ∧
  (i.usesNbSteps = false → nbField (encode i) = 0 ∧ stepsField (encode i) = 0)

/-- The statement from the packing of the word. -/
theorem encodedFields_of_packed {i : Instr} {op : BitVec 5} {len : BitVec 6} {nb : BitVec 2} {steps : BitVec 5}
    (he : encode i = packWord op len nb steps) (hlen : i.usesLen = false → len = 0)
    (hperm : i.usesNbSteps = false → nb = 0 ∧ steps = 0) : EncodedFields.Statement i := by
  unfold EncodedFields.Statement
  rw [he, packWord_lowReserved, packWord_highReserved, packWord_lenField, packWord_nbField, packWord_stepsField]
  exact ⟨rfl, rfl, hlen, hperm⟩

/-- The statement for a command without fields. -/
theorem encodedFields_plain {i : Instr} {op : BitVec 5} (he : encode i = packWord op 0 0 0) :
    EncodedFields.Statement i :=
  encodedFields_of_packed he (fun _ => rfl) fun _ => ⟨rfl, rfl⟩

/-- The statement for a last-block command. -/
theorem encodedFields_last {i : Instr} {op : BitVec 5} {len : BitVec 6} (he : encode i = packWord op len 0 0)
    (hu : i.usesLen = true) : EncodedFields.Statement i :=
  encodedFields_of_packed he (fun h => by simp [hu] at h) fun _ => ⟨rfl, rfl⟩

theorem EncodedFields.nop : EncodedFields.Statement .nop := encodedFields_plain rfl
theorem EncodedFields.clear : EncodedFields.Statement .clear := encodedFields_plain rfl

theorem EncodedFields.perm (nb : BitVec 2) (steps : BitVec 5) : EncodedFields.Statement (.perm nb steps) :=
  encodedFields_of_packed (i := .perm nb steps) rfl (fun _ => rfl) fun h => nomatch h

theorem EncodedFields.hashInit : EncodedFields.Statement .hashInit := encodedFields_plain rfl
theorem EncodedFields.hashAbsorb : EncodedFields.Statement .hashAbsorb := encodedFields_plain rfl

theorem EncodedFields.hashLast (len : BitVec 6) : EncodedFields.Statement (.hashLast len) :=
  encodedFields_last (i := .hashLast len) rfl rfl

theorem EncodedFields.hashSqueeze : EncodedFields.Statement .hashSqueeze := encodedFields_plain rfl
theorem EncodedFields.aeadInit : EncodedFields.Statement .aeadInit := encodedFields_plain rfl
theorem EncodedFields.aeadAd : EncodedFields.Statement .aeadAd := encodedFields_plain rfl

theorem EncodedFields.aeadAdLast (len : BitVec 6) : EncodedFields.Statement (.aeadAdLast len) :=
  encodedFields_last (i := .aeadAdLast len) rfl rfl

theorem EncodedFields.aeadEnc : EncodedFields.Statement .aeadEnc := encodedFields_plain rfl

theorem EncodedFields.aeadEncLast (len : BitVec 6) : EncodedFields.Statement (.aeadEncLast len) :=
  encodedFields_last (i := .aeadEncLast len) rfl rfl

theorem EncodedFields.aeadDec : EncodedFields.Statement .aeadDec := encodedFields_plain rfl

theorem EncodedFields.aeadDecLast (len : BitVec 6) : EncodedFields.Statement (.aeadDecLast len) :=
  encodedFields_last (i := .aeadDecLast len) rfl rfl

theorem EncodedFields.aeadTag : EncodedFields.Statement .aeadTag := encodedFields_plain rfl
theorem EncodedFields.aeadVerify : EncodedFields.Statement .aeadVerify := encodedFields_plain rfl

end Sys2Proof.Laws
end

