-- ==== Sys2Proof/Laws/Permutation.lean ====
section
/-! SUPPORT. The permutation as a loop over its steps: settling changes no value. -/

namespace Sys2Proof.Machine

@[simp] theorem sparkleFrom_zero (nb i : Nat) (S : Vector Word 16) : sparkleFrom nb 0 i S = S := rfl

theorem sparkleFrom_succ (nb count i : Nat) (S : Vector Word 16) :
    sparkleFrom nb (count + 1) i S = sparkleFrom nb count (i + 1) (sparkleStep nb i S) :=
  settleFile_eq _ _

/-- The last of `count + 1` steps is step `i + count`. -/
theorem sparkleFrom_last (nb count i : Nat) (S : Vector Word 16) :
    sparkleFrom nb (count + 1) i S = sparkleStep nb (i + count) (sparkleFrom nb count i S) := by
  induction count generalizing i S with
  | zero => simp [sparkleFrom_succ]
  | succ n ih =>
    rw [sparkleFrom_succ, ih, sparkleFrom_succ]
    congr 1
    omega

/-- A property that every step keeps is kept by the permutation. -/
theorem sparkle_keeps {nb : Nat} (P : Vector Word 16 → Prop) (hstep : ∀ i S, P S → P (sparkleStep nb i S))
    (steps : Nat) (S : Vector Word 16) (h : P S) : P (sparkle nb steps S) := by
  have : ∀ count i S, P S → P (sparkleFrom nb count i S) := by
    intro count
    induction count with
    | zero => exact fun _ _ h => h
    | succ n ih =>
      intro i S h
      rw [sparkleFrom_succ]
      exact ih _ _ (hstep i S h)
  exact this steps 0 S h

end Sys2Proof.Machine
end

