-- ==== Sys2Proof/Laws/Step.lean ====
section
/-! SUPPORT. What one step can do, said once: which agent moves, and what its move can answer. -/

namespace Sys2Proof.Machine

/-- An access either stops the machine or reaches the register at its offset. -/
theorem window_cases (off width : Nat) (k : Reg → Out) :
    (0x100 ≤ off ∧ window off width k = .fault (.outsideWindow off)) ∨
    (off < 0x100 ∧ (off % 4 ≠ 0 ∨ width ≠ 4) ∧ window off width k = .refused (.accessNotAdmitted off width)) ∨
    (off < 0x100 ∧ off % 4 = 0 ∧ width = 4 ∧ window off width k = k (regAt off)) := by
  unfold window
  split
  · exact .inl ⟨‹_›, rfl⟩
  · split
    · exact .inr (.inl ⟨by omega, ‹_›, rfl⟩)
    · exact .inr (.inr ⟨by omega, by omega, by omega, rfl⟩)

/-- If an access answers a next state, it was admitted. -/
theorem window_next {off width : Nat} {k : Reg → Out} {t : State} (h : window off width k = .next t) :
    off < 0x100 ∧ off % 4 = 0 ∧ width = 4 ∧ k (regAt off) = .next t := by
  rcases window_cases off width k with ⟨_, h'⟩ | ⟨_, _, h'⟩ | ⟨h1, h2, h3, h'⟩ <;> rw [h'] at h
  · cases h
  · cases h
  · exact ⟨h1, h2, h3, h⟩

/-- A read returns the register's value and changes nothing, or draws a free value. -/
theorem readReg_cases (r : Reg) (s : State) :
    (readReg r s = (regValue r s, s)) ∨ ((s.rst = true ∨ s.busy = true) ∧ readReg r s = drawAny s) := by
  unfold readReg
  split
  · exact .inr ⟨.inl ‹_›, rfl⟩
  · split
    · split
      · exact .inr ⟨.inr ‹_›, rfl⟩
      · exact .inl rfl
    · split
      · exact .inr ⟨.inr ‹_›, rfl⟩
      · exact .inl rfl
    · exact .inl rfl

/-- The engine's move: nothing where it is not enabled or nothing is pending, else the refusal of an illegal word or the
completion of a command. -/
theorem engineTurn_cases (s : State) :
    (engineTurn s = .next s ∧ (engineEnabled s = false ∨ s.pending = none)) ∨
    (engineEnabled s = true ∧ ∃ w e, s.pending = some w ∧ decode w = .error e ∧
      engineTurn s = .next (refuse .illegal s)) ∨
    (engineEnabled s = true ∧ ∃ w i, s.pending = some w ∧ decode w = .ok i ∧ engineTurn s = exec i s) := by
  unfold engineTurn engineStep
  by_cases he : engineEnabled s = true
  · cases hp : s.pending with
    | none => exact .inl ⟨by simp [he], .inr rfl⟩
    | some w =>
      cases hd : decode w with
      | error e => exact .inr (.inl ⟨he, w, e, rfl, hd, by simp [he, hd]⟩)
      | ok i => exact .inr (.inr ⟨he, w, i, rfl, hd, by simp [he, hd]⟩)
  · exact .inl ⟨by simp [he], .inl (by simpa using he)⟩

/-- Whose move a step is. -/
theorem step_cases (s : State) :
    (s.turns = [] ∧ engineEnabled s = true ∧ step s = engineTurn s) ∨
    (s.turns = [] ∧ engineEnabled s = false ∧ step s = hostTurn s) ∨
    (∃ rest, s.turns = .host :: rest ∧ step s = hostTurn { s with turns := rest }) ∨
    (∃ rest, s.turns = .engine :: rest ∧ step s = engineTurn { s with turns := rest }) ∨
    (∃ level rest, s.turns = .rst level :: rest ∧ step s = .next (driveRst level { s with turns := rest })) := by
  unfold step takeTurn
  cases hs : s.turns with
  | nil =>
    by_cases he : engineEnabled s = true
    · exact .inl ⟨rfl, he, by simp [he]⟩
    · exact .inr (.inl ⟨rfl, by simpa using he, by simp [he]⟩)
  | cons t rest =>
    cases t with
    | host => exact .inr (.inr (.inl ⟨rest, rfl, rfl⟩))
    | engine => exact .inr (.inr (.inr (.inl ⟨rest, rfl, rfl⟩)))
    | rst level => exact .inr (.inr (.inr (.inr ⟨level, rest, rfl, rfl⟩)))

end Sys2Proof.Machine
end

