-- ==== Sys2Proof/Tests/Slice0.lean ====
section
/-! SUPPORT. Tests of single operations and single steps against values written out from spec/, and for each statement with
hypotheses a witness that meets them. Expected values are the spec's worked examples and 95_test_vectors.md. -/

namespace Sys2Proof.Tests

set_option Elab.async false

open Sys2Proof Sys2Proof.Machine Sys2Proof.Safety

/-! Small states. -/

/-- The reset state under a variant and in a phase. -/
def idleAt (V : Variant) (p : Phase) : State := { State.reset with variant := V, phase := p }

/-- A file whose first words are given, the rest 0. -/
def fileOfList (n : Nat) (ws : List Word) : Vector Word n := fileOf n fun i => ws.getD i 0

/-- The words of the bytes 00..0F. -/
def count16 : List Word := [0x03020100, 0x07060504, 0x0B0A0908, 0x0F0E0D0C]

/-- SCHWAEMM128_128 after AEAD_INIT with key and nonce 00..0F (95_test_vectors.md section 5.1), DIN given. -/
def ready128 (din : List Word) : State :=
  { idleAt .schwaemm128_128 .aReady with
    S := fileOfList 16
      [0x6ED1DBFE, 0xEC2C5C1E, 0x20AF129B, 0x6A6608A8, 0xCE75CFDD, 0xD7E04DB3, 0xE2BDC35B, 0x468D0715]
    key := fileOfList 8 count16
    din := fileOfList 8 din }

/-- A state with a command word in flight. -/
def busyWith (w : Word) (s : State) : State := accept w s

/-- The state whose host runs the statements. -/
def hosting (stmts : List HostStmt) (s : State) : State := { s with host := stmts }

/-- The step answers a next state, and `p` holds of it. -/
def nextAnd (o : Out) (p : State → Bool) : Bool :=
  match o with
  | .next t => p t
  | _ => false

/-- The first words of a file. -/
def firstWords {n : Nat} (k : Nat) (v : Vector Word n) : List Word := (List.range k).map (getW v)

/-- The Schwaemm rows of 00_scope.md R8. -/
def row128 : AeadRow := ⟨.schwaemm128_128, 4, 4, 4, 7, 10⟩
def row192 : AeadRow := ⟨.schwaemm192_192, 6, 6, 6, 7, 11⟩
def row256 : AeadRow := ⟨.schwaemm256_128, 6, 8, 4, 7, 11⟩

/-! Well-formedness: NB = 3 is the one ill-formed operand (30_encoding.md R103). -/

theorem test_wf_refuses_nb3 : Instr.wf (.perm 3 11) = false := by decide
theorem test_wf_admits : Instr.wf (.perm 2 31) = true ∧ Instr.wf (.hashLast 63) = true := by decide

/-! Decoding: for every constructor a word written bit by bit from 30_encoding.md R100 and R106:
31:21 reserved, 20:16 STEPS, 15:14 NB, 13:8 LEN, 7:5 reserved, 4:0 OP. -/

theorem test_decode_nop : decode 0b00000000000_00000_00_000000_000_00000 = .ok .nop := by decide
theorem test_decode_clear : decode 0b00000000000_00000_00_000000_000_00001 = .ok .clear := by decide
theorem test_decode_perm : decode 0b00000000000_01011_01_000000_000_00010 = .ok (.perm 1 11) := by decide
theorem test_decode_perm_top : decode 0b00000000000_11111_10_000000_000_00010 = .ok (.perm 2 31) := by decide
theorem test_decode_hash_init : decode 0b00000000000_00000_00_000000_000_01000 = .ok .hashInit := by decide
theorem test_decode_hash_absorb : decode 0b00000000000_00000_00_000000_000_01001 = .ok .hashAbsorb := by decide
theorem test_decode_hash_last : decode 0b00000000000_00000_00_000011_000_01010 = .ok (.hashLast 3) := by decide
theorem test_decode_hash_squeeze : decode 0b00000000000_00000_00_000000_000_01011 = .ok .hashSqueeze := by decide
theorem test_decode_aead_init : decode 0b00000000000_00000_00_000000_000_10000 = .ok .aeadInit := by decide
theorem test_decode_aead_ad : decode 0b00000000000_00000_00_000000_000_10001 = .ok .aeadAd := by decide
theorem test_decode_aead_ad_last : decode 0b00000000000_00000_00_100000_000_10010 = .ok (.aeadAdLast 32) := by decide
theorem test_decode_aead_enc : decode 0b00000000000_00000_00_000000_000_10011 = .ok .aeadEnc := by decide
theorem test_decode_aead_enc_last : decode 0b00000000000_00000_00_000101_000_10100 = .ok (.aeadEncLast 5) := by decide
theorem test_decode_aead_dec : decode 0b00000000000_00000_00_000000_000_10101 = .ok .aeadDec := by decide
theorem test_decode_aead_dec_last : decode 0b00000000000_00000_00_111111_000_10110 = .ok (.aeadDecLast 63) := by
  decide
theorem test_decode_aead_tag : decode 0b00000000000_00000_00_000000_000_10111 = .ok .aeadTag := by decide
theorem test_decode_aead_verify : decode 0b00000000000_00000_00_000000_000_11000 = .ok .aeadVerify := by decide

/-- One word for each item of 30_encoding.md R105, with the words of 95_test_vectors.md E1 to E6. -/
theorem test_decode_illegal :
    decode 0x00000003 = .error .reservedOp ∧ decode 0x00000021 = .error .reservedBits ∧
    decode 0x80000000 = .error .reservedBits ∧ decode 0x00000109 = .error .unusedLen ∧
    decode 0x00010000 = .error .unusedNbSteps ∧ decode 0x000BC002 = .error .reservedNb := by decide

/-- Every reserved OP value is refused (30_encoding.md R108). -/
theorem test_decode_reserved_ops :
    ∀ op : Fin 32, (op.val ∈ definedOps) = (decode (BitVec.ofNat 32 op.val) ≠ .error .reservedOp) := by
  decide +kernel

/-- The host's reading of a table row. -/
theorem test_decode_table_word :
    decodeTableWord 32 0x0000030A = some (.hashLast 3) ∧ decodeTableWord 32 0x000BC002 = none ∧
    decodeTableWord 8 0x18 = some .aeadVerify := by decide

/-- The words of the assembler's example lines (30_encoding.md R110). -/
theorem test_assemble :
    assemble { mnemonic := "PERM", nb := some 6, steps := some 11 } = some 0x000B4002 ∧
    assemble { mnemonic := "HASH_LAST", len := some 3 } = some 0x0000030A ∧
    assemble { mnemonic := "PERM", nb := some 5, steps := some 11 } = none ∧
    assemble { mnemonic := "HASH_LAST" } = none ∧ assemble { mnemonic := "NOP", len := some 0 } = none := by
  decide +kernel

/-! Constants: the facts of 00_scope.md R8 and 42_aead.md R196. -/

theorem test_variant_table :
    [Variant.esch256, .esch384, .schwaemm128_128, .schwaemm192_192, .schwaemm256_128].all (fun V =>
      V.R + V.CW == 2 * V.nb && decide (V.slim < V.big)) = true := by decide

theorem test_domain_constants :
    [Variant.schwaemm128_128, .schwaemm192_192, .schwaemm256_128].all (fun V =>
      (List.range 4).all fun k => V.aeadConst k == domainConst V k) = true := by decide +kernel

/-! Word functions (95_test_vectors.md section 2). -/

theorem test_rotr :
    rotr 0x12345678 0 = 0x12345678 ∧ rotr 0x12345678 31 = 0x2468ACF0 ∧ rotr 0x00000001 1 = 0x80000000 := by
  decide +kernel
theorem test_ell : ell 0x00008000 = 0x80008000 ∧ ell 0x80000000 = 0x00008000 := by decide +kernel
theorem test_alzette : alzette 0x01234567 0x89ABCDEF (rc 3) = (0x25441B75, 0xE4A66312) := by decide +kernel

/-! One command each. -/

/-- 40_permutation.md R139: with PHASE = A_AD, NOP leaves PHASE = A_AD, ERR = 0, DONE = 1. -/
theorem test_nop : nextAnd (exec .nop (idleAt .schwaemm128_128 .aAd)) (fun t => statusWord t == 0x00000602) = true := by
  decide +kernel

/-- 40_permutation.md R140: CLEAR leaves CONFIG; everything else is 0 and PHASE = IDLE. -/
theorem test_clear :
    nextAnd (exec .clear (ready128 count16)) (fun t =>
      statusWord t == 0x00000002 && configWord t == 2 && t.S == zeros 16 && t.key == zeros 8 && t.din == zeros 8) =
      true := by decide +kernel

/-- 95_test_vectors.md section 3.2: the state of all ones, nb = 4, one step. -/
theorem test_perm :
    nextAnd (exec (.perm 0 1) { State.reset with S := fileOfList 16 (List.replicate 8 0xFFFFFFFF) }) (fun t =>
      firstWords 8 t.S ==
        [0x39EF6059, 0x222E24B8, 0x86E680EA, 0xC1B71449, 0x1BE38EB9, 0x7C654E0A, 0x11C05E7C, 0xF13DCC3C]) =
      true := by decide +kernel

/-- 95_test_vectors.md section 3.1: nb = 8, steps = 12, which wraps the index of RC. -/
theorem test_perm_wraps :
    nextAnd (exec (.perm 2 12) State.reset) (fun t =>
      getW t.S 0 == 0x4E220540 && getW t.S 15 == 0xB62EFAC8) = true := by decide +kernel

/-- 41_hash.md R164. -/
theorem test_hash_init :
    nextAnd (exec .hashInit { ready128 count16 with variant := .esch256 }) (fun t =>
      statusWord t == 0x00000102 && t.S == zeros 16 && getW t.din 0 == 0x03020100) = true := by decide +kernel

/-- 95_test_vectors.md E7: HASH_INIT under a Schwaemm variant is VARIANT. -/
theorem test_hash_init_refused :
    nextAnd (exec .hashInit (idleAt .schwaemm128_128 .idle)) (fun t => statusWord t == 0x00000036) = true := by
  decide +kernel

/-- 95_test_vectors.md E10 and section 3.1: a zero block leaves the words of `nb=6, steps=7`. -/
theorem test_hash_absorb :
    nextAnd (exec .hashAbsorb (idleAt .esch256 .hEmpty)) (fun t =>
      statusWord t == 0x00000202 && getW t.S 0 == 0x4DF96879 && getW t.S 11 == 0x83ACF1E2) = true := by
  decide +kernel

/-- 95_test_vectors.md section 4.2: the empty message under ESCH256. -/
theorem test_hash_last_empty :
    nextAnd (exec (.hashLast 0) (idleAt .esch256 .hEmpty)) (fun t =>
      statusWord t == 0x00000302 && firstWords 4 t.S == [0xD715E8C0, 0xC75D878B, 0xB3C8C668, 0x8719A5AF]) =
      true := by decide +kernel

/-- 95_test_vectors.md section 4.1: the first digest bytes of "abc" under ESCH384. -/
theorem test_hash_last :
    nextAnd (exec (.hashLast 3) { idleAt .esch384 .hEmpty with din := fileOfList 8 [0x00636261] }) (fun t =>
      firstWords 2 t.S == [0xD2DDBC76, 0x9F63B930]) = true := by decide +kernel

/-- 41_hash.md R167: the first squeeze applies no permutation. -/
theorem test_hash_squeeze_first :
    nextAnd (exec .hashSqueeze { ready128 [] with variant := .esch256, phase := .hSqueeze }) (fun t =>
      statusWord t == 0x00001302 && firstWords 5 t.dout == [0x6ED1DBFE, 0xEC2C5C1E, 0x20AF129B, 0x6A6608A8, 0]) =
      true := by decide +kernel

/-- 41_hash.md R167 with 95_test_vectors.md section 3.1: a later squeeze of the zero state is `nb=6, steps=7`. -/
theorem test_hash_squeeze_later :
    nextAnd (exec .hashSqueeze { idleAt .esch256 .hSqueeze with sqzcnt := 1 }) (fun t =>
      statusWord t == 0x00002402 && firstWords 2 t.dout == [0x4DF96879, 0x8C7C2C33]) = true := by decide +kernel

/-- 95_test_vectors.md section 5.1, key and nonce 00..0F. -/
theorem test_aead_init :
    nextAnd
      (exec .aeadInit
        { idleAt .schwaemm128_128 .idle with key := fileOfList 8 count16, din := fileOfList 8 count16 }) (fun t =>
      statusWord t == 0x00000502 && t.S == (ready128 []).S) = true := by decide +kernel

/-- 42_aead.md R207 and 95_test_vectors.md section 5.2: an interior AD block 00..0F and a last block of one byte 10
leave the capacity whose XOR with the key is the tag of 17 bytes of AD. -/
theorem test_aead_ad :
    nextAnd (exec .aeadAd (ready128 count16)) (fun t =>
      nextAnd (exec (.aeadAdLast 1) { t with din := fileOfList 8 [0x10] }) fun u =>
        statusWord t == 0x00000602 && (getW u.S 4 ^^^ getW u.key 0) == 0xAE098F35) = true := by decide +kernel

/-- 95_test_vectors.md section 5.2: one byte of AD. -/
theorem test_aead_ad_last :
    nextAnd (exec (.aeadAdLast 1) (ready128 count16)) (fun t =>
      statusWord t == 0x00000702 && (getW t.S 4 ^^^ getW t.key 0) == 0x3E13A4D2) = true := by decide +kernel

/-- 95_test_vectors.md section 5.2: the first ciphertext block. -/
theorem test_aead_enc :
    nextAnd (exec .aeadEnc (ready128 count16)) (fun t =>
      statusWord t == 0x00000802 && firstWords 5 t.dout == [0x6DD3DAFE, 0xEB2A591A, 0x2BA51B93, 0x656805A4, 0]) =
      true := by decide +kernel

/-- 95_test_vectors.md section 5.2: 16 bytes of plaintext, the full last block, and its tag. -/
theorem test_aead_enc_last_full :
    nextAnd (exec (.aeadEncLast 16) (ready128 count16)) (fun t =>
      firstWords 2 t.dout == [0x6DD3DAFE, 0xEB2A591A] && (getW t.S 4 ^^^ getW t.key 0) == 0xD34D54F5) = true := by
  decide +kernel

/-- 95_test_vectors.md section 5.2: one byte of plaintext; what DIN holds beyond it is not read. -/
theorem test_aead_enc_last_short :
    nextAnd (exec (.aeadEncLast 1) (ready128 count16)) (fun t =>
      firstWords 2 t.dout == [0xFE, 0] && (getW t.S 4 ^^^ getW t.key 0) == 0x4FAA4726) = true := by decide +kernel

/-- 42_aead.md R202: the first ciphertext block gives the plaintext 00..0F back. -/
theorem test_aead_dec :
    nextAnd (exec .aeadDec (ready128 [0x6DD3DAFE, 0xEB2A591A, 0x2BA51B93, 0x656805A4])) (fun t =>
      statusWord t == 0x00000902 && firstWords 4 t.dout == count16) = true := by decide +kernel

/-- 95_test_vectors.md section 5.2: the ciphertext FE gives the plaintext 00, and the tag of that line. -/
theorem test_aead_dec_last :
    nextAnd (exec (.aeadDecLast 1) (ready128 [0xFFFFFFFE])) (fun t =>
      firstWords 1 t.dout == [0] && (getW t.S 4 ^^^ getW t.key 0) == 0x4FAA4726) = true := by decide +kernel

/-- 42_aead.md R209: the tag of empty AD and plaintext. -/
theorem test_aead_tag :
    nextAnd (exec .aeadTag (ready128 [])) (fun t =>
      statusWord t == 0x00000C02 &&
      firstWords 5 t.dout == [0xCD77CEDD, 0xD0E648B7, 0xE9B7CA53, 0x49830A19, 0]) = true := by decide +kernel

/-- 42_aead.md R211: that tag verifies, and one wrong bit of its last word does not; neither is an error. -/
theorem test_aead_verify :
    nextAnd (exec .aeadVerify (ready128 [0xCD77CEDD, 0xD0E648B7, 0xE9B7CA53, 0x49830A19])) (fun t =>
      statusWord t == 0x00000C0A) = true ∧
    nextAnd (exec .aeadVerify (ready128 [0xCD77CEDD, 0xD0E648B7, 0xE9B7CA53, 0x48830A19])) (fun t =>
      statusWord t == 0x00000C02) = true := by decide +kernel

/-! The window and the engine's move. -/

/-- 95_test_vectors.md E17: ILLEGAL comes before VARIANT. -/
theorem test_illegal_word :
    nextAnd (step (busyWith 0x00000117 State.reset)) (fun t => statusWord t == 0x00000016) = true := by decide +kernel

/-- 95_test_vectors.md E15 and E16: SEQUENCE before LEN, VARIANT before SEQUENCE. -/
theorem test_check_order :
    nextAnd (step (busyWith 0x0000110A State.reset)) (fun t => statusWord t == 0x00000046) = true ∧
    nextAnd (step (busyWith 0x00000017 State.reset)) (fun t => statusWord t == 0x00000036) = true := by
  decide +kernel

/-- 95_test_vectors.md E28, events 2 and 5. -/
theorem test_write_while_busy :
    nextAnd (hostWrite 0x040 4 0x11111111 (busyWith 0 State.reset)) (fun t =>
      statusWord t == 0x00000081 && getW t.din 0 == 0) = true ∧
    nextAnd (step { busyWith 0 State.reset with ovr := true, irqen := true }) (fun t =>
      statusWord t == 0x00000082 && irq t) = true := by decide +kernel

/-- 95_test_vectors.md E18 and E19: refused CONFIG writes. -/
theorem test_config_refused :
    nextAnd (hostWrite 0x00C 4 0x05 State.reset) (fun t => statusWord t == 0x00000034 && configWord t == 0) = true ∧
    nextAnd (hostWrite 0x00C 4 0x12 State.reset) (fun t => statusWord t == 0x00000034) = true := by decide +kernel

/-- 95_test_vectors.md E22: CLRST clears DONE, ERR and ERRCODE. -/
theorem test_clrst :
    nextAnd (step (hosting [clrst] (refuse .illegal State.reset))) (fun t => statusWord t == 0) = true := by
  decide +kernel

/-- A POLL read ends only when BUSY = 0 (30_encoding.md R111). -/
theorem test_poll :
    nextAnd (hostTurn (hosting [.poll] (busyWith 0 State.reset))) (fun t => t.host == [.poll]) = true ∧
    nextAnd (hostTurn (hosting [.poll] State.reset)) (fun t => t.host == []) = true := by decide +kernel

/-- 70_reset_and_hazards.md R293, "must never": a write while busy, a CONFIG, STATE, KEY or PERM write in mid-operation. -/
theorem test_host_duties :
    hostDisciplined (hosting [wr .cmd 0] (busyWith 0 State.reset)) = false ∧
    hostDisciplined (hosting [wr .config 0] (idleAt .esch256 .hAbsorb)) = false ∧
    hostDisciplined (hosting [wr .config 0] (idleAt .esch256 .hDone)) = true ∧
    hostDisciplined (hosting [wr (.state 0) 0] (idleAt .esch256 .hEmpty)) = false ∧
    hostDisciplined (hosting [wr (.key 0) 0] (idleAt .schwaemm128_128 .aEncDone)) = false ∧
    hostDisciplined (hosting [wr (.key 0) 0] (idleAt .esch256 .hAbsorb)) = true ∧
    hostDisciplined (hosting [wr .cmd 0x00010002] (idleAt .schwaemm128_128 .aReady)) = false := by decide +kernel

/-- 70_reset_and_hazards.md R287: the procedure reads every output block before the next command that writes DOUT; a
program that leaves a block unread does not. -/
theorem test_outputs_read :
    outputsRead .schwaemm128_128 []
      (encryptProcedure .schwaemm128_128 [] [] [] (List.replicate 17 (0 : Byte)) true) = true ∧
    outputsRead .schwaemm128_128 [] (cmd .aeadEnc ++ cmd .aeadTag) = false := by decide +kernel

/-- 42_aead.md R229 with the end states of programs P3 and P4: 17 bytes of output, the tag, and bit 3 of STATUS. -/
theorem test_bound_results :
    (boundOutput .schwaemm128_128 (List.replicate 17 0)
      [(8, 0xFE), (0, 0x6D3D77A0), (1, 0xBD0A6377), (2, 0x671E2173), (3, 0x02EEFFBC)]).length = 17 ∧
    (boundOutput .schwaemm128_128 (List.replicate 17 0) [(8, 0xFE), (0, 0x6D3D77A0)]).getLast? = some 0xFE ∧
    (boundTag .schwaemm128_128 (List.replicate 17 0) [(16, 0x9E4C79F1)]).take 4 = [0xF1, 0x79, 0x4C, 0x9E] ∧
    boundVerified .schwaemm128_128 (List.replicate 17 0) [(16, 0x00000C0A)] = true ∧
    boundVerified .schwaemm128_128 (List.replicate 17 0) [(16, 0x00000C02)] = false := by decide +kernel

/-- The placed word is what the next step runs. -/
theorem test_with_fetch_word :
    nextAnd (step (State.reset.withFetchWord 32 0x00000008)) (fun t => statusWord t == 0x00000102) = true := by
  decide +kernel

/-- 70_reset_and_hazards.md R292: the work of a later squeeze, and of the first one. -/
theorem test_work :
    work .hashSqueeze .esch384 1 = 8 ∧ work .hashSqueeze .esch384 0 = 0 ∧ work .aeadInit .schwaemm128_128 0 = 10 ∧
    work (.perm 0 31) .esch256 0 = 31 := by decide

/-! Witnesses: states and operands that meet the hypotheses of the statements. -/

theorem test_witness_DecodeOfEncode : Instr.wf (.perm 2 31) = true ∧ Instr.wf (.perm 0 0) = true := by decide

theorem test_witness_EncodeOfDecode : decode 0x00003F0A = .ok (.hashLast 63) := by decide

theorem test_witness_IllegalWords :
    (busyWith 0x80000000 State.reset).busy = true ∧ (busyWith 0x80000000 State.reset).rst = false ∧
    (busyWith 0x80000000 State.reset).pending = some 0x80000000 ∧
    decode 0x80000000 = .error .reservedBits := by decide

theorem test_witness_StepRunsDecoded :
    (busyWith 0x00000001 State.reset).rst = false ∧ (busyWith 0x00000001 State.reset).busy = true ∧
    (busyWith 0x00000001 State.reset).pending = some 0x00000001 ∧ decode 0x00000001 = .ok .clear ∧
    (busyWith 0x00000001 State.reset).turns = [] ∧
    { busyWith 0x00000001 State.reset with turns := [.engine, .host] }.turns = .engine :: [.host] := by decide

theorem test_witness_CheckOrder :
    (busyWith 0x00000017 State.reset).busy = true ∧ (busyWith 0x00000017 State.reset).rst = false ∧
    (busyWith 0x00000017 State.reset).pending = some 0x00000017 ∧
    checkWord 0x00000017 .esch256 .idle = .variant ∧ checkWord 0x00000008 .esch256 .idle = .noError := by
  decide +kernel

theorem test_witness_RefusalCodes :
    variantAdmits .hashInit .schwaemm128_128 = false ∧
    (variantAdmits .hashAbsorb .esch256 = true ∧ phaseAdmits .hashAbsorb .idle = false) ∧
    (variantAdmits (.hashLast 17) .esch384 = true ∧ phaseAdmits (.hashLast 17) .hEmpty = true ∧
      lenAdmits (.hashLast 17) .esch384 .hEmpty = false) ∧
    lenAdmits (.hashLast 0) .esch256 .hAbsorb = false ∧ lenAdmits (.aeadAdLast 33) .schwaemm256_128 .aAd = false := by
  decide

/-- Every command is admitted in some state, the last-block commands at both ends of LEN. -/
theorem test_witness_PhaseTable :
    admitted .nop (idleAt .esch256 .hDone) = true ∧ admitted .clear (idleAt .esch384 .idle) = true ∧
    admitted (.perm 2 31) (idleAt .schwaemm128_128 .aDone) = true ∧
    admitted .hashInit (idleAt .esch384 .hDone) = true ∧ admitted .hashAbsorb (idleAt .esch256 .hAbsorb) = true ∧
    admitted (.hashLast 0) (idleAt .esch256 .hEmpty) = true ∧ admitted (.hashLast 16) (idleAt .esch256 .hAbsorb) = true ∧
    admitted .hashSqueeze (idleAt .esch256 .hSqueeze) = true ∧ admitted .aeadInit (idleAt .schwaemm192_192 .idle) = true ∧
    admitted .aeadAd (idleAt .schwaemm192_192 .aAd) = true ∧
    admitted (.aeadAdLast 24) (idleAt .schwaemm192_192 .aReady) = true ∧
    admitted .aeadEnc (idleAt .schwaemm192_192 .aAdDone) = true ∧
    admitted (.aeadEncLast 1) (idleAt .schwaemm256_128 .aEnc) = true ∧
    admitted .aeadDec (idleAt .schwaemm192_192 .aDec) = true ∧
    admitted (.aeadDecLast 32) (idleAt .schwaemm256_128 .aDec) = true ∧
    admitted .aeadTag (idleAt .schwaemm128_128 .aEncDone) = true ∧
    admitted .aeadVerify (idleAt .schwaemm128_128 .aDecDone) = true := by decide

theorem test_witness_CommandFrame :
    (∃ t, exec .nop (ready128 count16) = .next t) ∧ (∃ t, exec (.aeadAdLast 1) (ready128 count16) = .next t) ∧
    (Instr.nop ≠ .clear ∧ Instr.nop ∉ [Instr.clear, .hashInit, .hashSqueeze, .aeadInit, .aeadEnc, .aeadDec, .aeadTag] ∧
      Instr.nop.usesLen = false ∧ ∀ len, Instr.nop ≠ .hashLast len) :=
  ⟨⟨_, rfl⟩, ⟨_, rfl⟩, by decide, by decide, by decide, fun _ h => nomatch h⟩

theorem test_witness_RefusalIndependentOfData :
    ∃ t t', (ready128 []).variant = (ready128 count16).variant ∧ (ready128 []).phase = (ready128 count16).phase ∧
      (ready128 []).err = false ∧ (ready128 count16).err = false ∧
      (ready128 []).errcode = (ready128 count16).errcode ∧
      exec .aeadVerify (ready128 []) = .next t ∧ exec .aeadVerify (ready128 count16) = .next t' :=
  ⟨_, _, rfl, rfl, rfl, rfl, rfl, rfl, rfl⟩

theorem test_witness_AlzetteLines :
    (1 : Word) = 1 + rotr 0 31 ∧ rotr 1 24 = (0 : Word) ^^^ rotr 1 24 := by decide +kernel

theorem test_witness_StepConstantWords : (15 : Nat) ≠ 1 ∧ (15 : Nat) ≠ 3 := by decide

theorem test_witness_ArxLayerBranches : (8 : Nat) ≤ 8 ∧ (7 : Nat) < 8 ∧ 2 * 4 ≤ (8 : Nat) := by decide

theorem test_witness_LinearLayerWords :
    ((4 : Nat) = 4 ∨ (4 : Nat) = 6 ∨ (4 : Nat) = 8) ∧ (1 : Nat) < 4 / 2 ∧ (0 : Nat) = (1 + 1) % (4 / 2) := by decide

/-- Two states that differ beyond the branches only. -/
theorem test_witness_SparkleSteps :
    ((6 : Nat) = 4 ∨ (6 : Nat) = 6 ∨ (6 : Nat) = 8) ∧ 2 * 6 ≤ (15 : Nat) ∧
    (∀ k < 2 * 6, getW (zeros 16) k = getW (setW (zeros 16) 12 1) k) := by decide +kernel

theorem test_witness_SparkleInjective :
    ((8 : Nat) = 4 ∨ (8 : Nat) = 6 ∨ (8 : Nat) = 8) ∧ sparkle 8 12 (zeros 16) = sparkle 8 12 (zeros 16) := ⟨by decide, rfl⟩

theorem test_witness_NopResult :
    (0x00000020 : Word).extractLsb' 0 5 = 0 ∧ (0x00000020 : Word) ≠ 0 := by decide

theorem test_witness_PermResult :
    (2 : BitVec 2) ≠ 3 ∧ (8 : Nat) = [4, 6, 8].getD (2 : BitVec 2).toNat 0 ∧ (0 : BitVec 5) = 0 := by decide

theorem test_witness_PadBytes :
    ([] : List Byte).length ≤ 16 ∧ (List.replicate 16 (0x80 : Byte)).length = 16 ∧ (15 : Nat) < 16 := by decide

theorem test_witness_HashInitResult :
    (idleAt .esch256 .idle).variant.isEsch = true ∧ (idleAt .esch384 .aDone).variant.isEsch = true := by decide

theorem test_witness_HashAbsorbResult :
    (idleAt .esch384 .hEmpty).variant.isEsch = true ∧ (idleAt .esch384 .hEmpty).phase ∈ [Phase.hEmpty, .hAbsorb] := by
  decide

/-- LEN = 0 in H_EMPTY, LEN = 16 in H_ABSORB. -/
theorem test_witness_HashLastResult :
    ((idleAt .esch256 .hEmpty).variant.isEsch = true ∧ (idleAt .esch256 .hEmpty).phase ∈ [Phase.hEmpty, .hAbsorb] ∧
      (0 : BitVec 6).toNat ≤ 16 ∧ ((0 : BitVec 6) = 0 → (idleAt .esch256 .hEmpty).phase = .hEmpty)) ∧
    ((idleAt .esch384 .hAbsorb).phase ∈ [Phase.hEmpty, .hAbsorb] ∧ (16 : BitVec 6).toNat ≤ 16 ∧
      ((16 : BitVec 6) = 0 → (idleAt .esch384 .hAbsorb).phase = .hEmpty)) := by decide

/-- The first squeeze, and the last one of ESCH384. -/
theorem test_witness_HashSqueezeResult :
    ((idleAt .esch256 .hSqueeze).variant.isEsch = true ∧ (idleAt .esch256 .hSqueeze).phase = .hSqueeze ∧
      (idleAt .esch256 .hSqueeze).sqzcnt = 0) ∧
    ({ idleAt .esch384 .hSqueeze with sqzcnt := 2 }.sqzcnt ≠ 0 ∧
      ({ idleAt .esch384 .hSqueeze with sqzcnt := 2 }.sqzcnt + 1).toNat = 3) := by decide

theorem test_witness_AeadInitResult :
    row128 ∈ aeadRows ∧ (idleAt .schwaemm128_128 .idle).variant = row128.variant ∧
    row256 ∈ aeadRows ∧ (idleAt .schwaemm256_128 .aEnc).variant = row256.variant := by decide

theorem test_witness_AeadAdResult :
    row192 ∈ aeadRows ∧ (idleAt .schwaemm192_192 .aAd).variant = row192.variant ∧
    (idleAt .schwaemm192_192 .aAd).phase ∈ [Phase.aReady, .aAd] := by decide

/-- LEN = 1 and LEN = RB. -/
theorem test_witness_AeadAdLastResult :
    row256 ∈ aeadRows ∧ (idleAt .schwaemm256_128 .aReady).variant = row256.variant ∧
    (idleAt .schwaemm256_128 .aReady).phase ∈ [Phase.aReady, .aAd] ∧
    1 ≤ (1 : BitVec 6).toNat ∧ (1 : BitVec 6).toNat ≤ 4 * row256.R ∧
    1 ≤ (32 : BitVec 6).toNat ∧ (32 : BitVec 6).toNat ≤ 4 * row256.R := by decide

theorem test_witness_AeadEncResult :
    row128 ∈ aeadRows ∧ (idleAt .schwaemm128_128 .aAdDone).variant = row128.variant ∧
    (idleAt .schwaemm128_128 .aAdDone).phase ∈ [Phase.aReady, .aAdDone, .aEnc] := by decide

theorem test_witness_AeadEncLastResult :
    row192 ∈ aeadRows ∧ (idleAt .schwaemm192_192 .aEnc).variant = row192.variant ∧
    (idleAt .schwaemm192_192 .aEnc).phase ∈ [Phase.aReady, .aAdDone, .aEnc] ∧
    1 ≤ (23 : BitVec 6).toNat ∧ (23 : BitVec 6).toNat ≤ 4 * row192.R ∧
    1 ≤ (24 : BitVec 6).toNat ∧ (24 : BitVec 6).toNat ≤ 4 * row192.R := by decide

theorem test_witness_AeadDecResult :
    row128 ∈ aeadRows ∧ (idleAt .schwaemm128_128 .aDec).variant = row128.variant ∧
    (idleAt .schwaemm128_128 .aDec).phase ∈ [Phase.aReady, .aAdDone, .aDec] := by decide

theorem test_witness_AeadDecLastResult :
    row128 ∈ aeadRows ∧ (idleAt .schwaemm128_128 .aReady).variant = row128.variant ∧
    (idleAt .schwaemm128_128 .aReady).phase ∈ [Phase.aReady, .aAdDone, .aDec] ∧
    1 ≤ (16 : BitVec 6).toNat ∧ (16 : BitVec 6).toNat ≤ 4 * row128.R := by decide

theorem test_witness_AeadTagResult :
    row192 ∈ aeadRows ∧ (idleAt .schwaemm192_192 .aEncDone).variant = row192.variant ∧
    (idleAt .schwaemm192_192 .aEncDone).phase ∈ [Phase.aReady, .aAdDone, .aEncDone] := by decide

theorem test_witness_AeadVerifyResult :
    row192 ∈ aeadRows ∧ (idleAt .schwaemm192_192 .aDecDone).variant = row192.variant ∧
    (idleAt .schwaemm192_192 .aDecDone).phase ∈ [Phase.aReady, .aAdDone, .aDecDone] := by decide

/-- A first interior block, a later one (A_ENC against A_DEC), and a last block of one byte. -/
theorem test_witness_DecryptionMirrorsEncryption :
    (ready128 count16).variant.isSchwaemm = true ∧ (ready128 count16).phase ∈ [Phase.aReady, .aAdDone, .aEnc] ∧
    Phase.aReady ∈ [Phase.aReady, .aAdDone, .aDec] ∧ Phase.aDec ∈ [Phase.aReady, .aAdDone, .aDec] ∧
    (∃ t u, exec .aeadEnc (ready128 count16) = .next t ∧
      exec .aeadDec { ready128 count16 with din := t.dout, phase := .aReady } = .next u) ∧
    (∃ t u, exec .aeadEnc { ready128 count16 with phase := .aEnc } = .next t ∧
      exec .aeadDec { ready128 count16 with din := t.dout, phase := .aDec } = .next u) ∧
    1 ≤ (1 : BitVec 6).toNat ∧ (1 : BitVec 6).toNat ≤ (ready128 count16).variant.RB ∧
    ∃ t u, exec (.aeadEncLast 1) (ready128 count16) = .next t ∧
      exec (.aeadDecLast 1) { ready128 count16 with din := t.dout, phase := .aDec } = .next u :=
  ⟨by decide, by decide, by decide, by decide, ⟨_, _, rfl, rfl⟩, ⟨_, _, rfl, rfl⟩, by decide, by decide, _, _, rfl, rfl⟩

theorem test_witness_SchwaemmRoundTrip : Variant.schwaemm192_192.isSchwaemm = true := by decide

theorem test_witness_OutputLengths : Variant.schwaemm128_128.isSchwaemm = true := by decide

/-- LEN = 1: the first bytes agree, the second ones do not. -/
theorem test_witness_DinBeyondLenIgnored :
    Instr.aeadEncLast 1 ∈ [Instr.hashLast 1, .aeadAdLast 1, .aeadEncLast 1, .aeadDecLast 1] ∧
    (∀ k < (1 : BitVec 6).toNat, fileByte (fileOfList 8 [0x00]) k = fileByte (ready128 count16).din k) ∧
    ∃ t, exec (.aeadEncLast 1) (ready128 count16) = .next t :=
  ⟨by decide, by decide +kernel, _, rfl⟩

/-- AEAD_VERIFY with words beyond CW that differ, and AEAD_TAG with every word of DIN different. -/
theorem test_witness_UnusedOperandWordsIgnored :
    (Instr.aeadVerify ≠ .clear ∧ Instr.aeadVerify.usesLen = false ∧
      (∀ k < dinWords (ready128 count16).variant .aeadVerify,
        getW (fileOfList 8 (count16 ++ [7])) k = getW (ready128 count16).din k) ∧
      (∀ k < keyWords (ready128 count16).variant .aeadVerify,
        getW (fileOfList 8 (count16 ++ [9])) k = getW (ready128 count16).key k) ∧
      ∃ t, exec .aeadVerify (ready128 count16) = .next t) ∧
    (Instr.aeadTag ≠ .clear ∧ Instr.aeadTag.usesLen = false ∧
      (∀ k < dinWords (ready128 count16).variant .aeadTag, getW (zeros 8) k = getW (ready128 count16).din k) ∧
      ∃ t, exec .aeadTag (ready128 count16) = .next t) :=
  ⟨⟨by decide, by decide, by decide +kernel, by decide +kernel, _, rfl⟩, by decide, by decide, by decide, _, rfl⟩

theorem test_witness_CmdAcceptance : State.reset.rst = false ∧ State.reset.busy = false := by decide

/-- The ends of each range of offsets. -/
theorem test_witness_BusyAccesses :
    (busyWith 0 State.reset).rst = false ∧ (busyWith 0 State.reset).busy = true ∧
    (∀ off ∈ [0x00C, 0x010, 0x020, 0x05C, 0x080, 0x0BC], off % 4 = 0 ∧
      (off = 0x00C ∨ off = 0x010 ∨ (0x020 ≤ off ∧ off < 0x060) ∨ (0x080 ≤ off ∧ off < 0x0C0))) ∧
    (∀ off ∈ [0x000, 0x014, 0x01C, 0x060, 0x07C, 0x0C0, 0x0FC], off % 4 = 0 ∧
      (off = 0x000 ∨ (0x014 ≤ off ∧ off < 0x020) ∨ (0x060 ≤ off ∧ off < 0x080) ∨ (0x0C0 ≤ off ∧ off < 0x100))) ∧
    (∀ off ∈ [0x000, 0x05C, 0x0C0, 0x0FC], off % 4 = 0 ∧ (off < 0x060 ∨ (0x0C0 ≤ off ∧ off < 0x100))) ∧
    (∀ off ∈ [0x060, 0x0BC], off % 4 = 0 ∧ 0x060 ≤ off ∧ off < 0x0C0) ∧
    ∃ t, hostTurn (hosting [.write 0x040 4 1] (busyWith 0 State.reset)) = .next t :=
  ⟨by decide, by decide, by decide, by decide, by decide, by decide, _, rfl⟩

theorem test_witness_ConfigWrite :
    State.reset.rst = false ∧ State.reset.busy = false ∧ (4 : Word).toNat ≤ 4 ∧ 4 < (5 : Word).toNat ∧
    (busyWith 0 State.reset).busy = true := by decide

theorem test_witness_StatusRegister : (busyWith 0 State.reset).rst = false ∧ State.reset.rst = false := by decide

theorem test_witness_ReservedOffsets :
    State.reset.rst = false ∧ ∀ off ∈ [0x014, 0x01C, 0x0C0, 0x0FC], off % 4 = 0 ∧
      ((0x014 ≤ off ∧ off < 0x020) ∨ (0x0C0 ≤ off ∧ off < 0x100)) := by decide

theorem test_witness_IdCtrlCmdRegisters :
    State.reset.rst = false ∧ State.reset.busy = false ∧ (busyWith 0 State.reset).rst = false ∧
    (busyWith 0 State.reset).busy = true := by decide

theorem test_witness_DataWindows :
    State.reset.rst = false ∧ State.reset.busy = false ∧ (15 : Nat) < 16 ∧ (7 : Nat) < 8 := by decide

/-- A byte access, an unaligned one, and the ends of the window. -/
theorem test_witness_AccessesNotAdmitted :
    ((0x0FC : Nat) < 0x100 ∧ ((0x0FC : Nat) % 4 ≠ 0 ∨ (1 : Nat) ≠ 4)) ∧
    ((0x0FF : Nat) < 0x100 ∧ ((0x0FF : Nat) % 4 ≠ 0 ∨ (4 : Nat) ≠ 4)) ∧ 0x100 ≤ (0x100 : Nat) := by decide

theorem test_witness_ReadsHaveNoEffect : State.reset.busy = false ∧ State.reset.rst = false := by decide

theorem test_witness_InterruptLine :
    (∃ t, exec .nop State.reset = .next t) ∧ State.reset.rst = false ∧ State.reset.busy = false ∧
    (0x86 : Word).getLsbD 1 = true ∧ (∃ t, hostWrite 0x008 4 0x86 State.reset = .next t) ∧
    (∃ t, hostWrite 0x010 4 0 State.reset = .next t) ∧
    (0 : Word).getLsbD 0 = false ∧ ∃ t, hostWrite 0x004 4 0 { State.reset with done := true } = .next t :=
  ⟨⟨_, rfl⟩, rfl, rfl, by decide, ⟨_, rfl⟩, ⟨_, rfl⟩, by decide, _, rfl⟩

theorem test_witness_InFlightInputsFixed :
    (busyWith 0 State.reset).busy = true ∧
    ∃ t, hostTurn (hosting [.write 0x080 4 1] (busyWith 0 State.reset)) = .next t := ⟨rfl, _, rfl⟩

/-- A host access for every field that can change. -/
theorem test_witness_HostMoveFrame :
    (∃ t, hostTurn (hosting [.write 0x0BC 4 1] State.reset) = .next t ∧ t.S ≠ State.reset.S) ∧
    (∃ t, hostTurn (hosting [.write 0x020 4 1] State.reset) = .next t ∧ t.key ≠ State.reset.key) ∧
    (∃ t, hostTurn (hosting [.write 0x05C 4 1] State.reset) = .next t ∧ t.din ≠ State.reset.din) ∧
    (∃ t, hostTurn (hosting [.write 0x00C 4 1] State.reset) = .next t ∧ t.variant ≠ State.reset.variant) ∧
    (∃ t, hostTurn (hosting [.write 0x004 4 1] State.reset) = .next t ∧ t.irqen ≠ State.reset.irqen) ∧
    (∃ t, hostTurn (hosting [.write 0x010 4 1] (complete State.reset)) = .next t ∧
      t.pending ≠ State.reset.pending ∧ t.busy ≠ State.reset.busy ∧ t.done ≠ (complete State.reset).done) ∧
    (∃ t, hostTurn (hosting [.write 0x008 4 2] (complete State.reset)) = .next t ∧
      t.done ≠ (complete State.reset).done) ∧
    (∃ t, hostTurn (hosting [.write 0x080 4 1] (busyWith 0 State.reset)) = .next t ∧ t.ovr ≠ State.reset.ovr) ∧
    (∃ t, hostTurn (hosting [.write 0x008 4 0x80] { State.reset with ovr := true }) = .next t ∧ t.ovr ≠ true) ∧
    (∃ t, hostTurn (hosting [.write 0x00C 4 5] State.reset) = .next t ∧ t.err ≠ State.reset.err) ∧
    (∃ t, hostTurn (hosting [.write 0x008 4 4] (refuse .len State.reset)) = .next t ∧ t.errcode ≠ .len) ∧
    (∃ t, hostTurn (hosting [.read 0x060 4 7] (busyWith 0 State.reset)) = .next t ∧ t.draws ≠ State.reset.draws) ∧
    (hosting [.read 0x0FC 4 7] State.reset).host = .read 0x0FC 4 7 :: [] ∧ State.reset.rst = false ∧
    (0x0FC : Nat) < 0x100 ∧ (0x0FC : Nat) % 4 = 0 ∧ (State.reset.busy = true → (0x0FC : Nat) < 0x060 ∨ 0x0C0 ≤ (0x0FC : Nat)) :=
  ⟨⟨_, rfl, by decide +kernel⟩, ⟨_, rfl, by decide +kernel⟩, ⟨_, rfl, by decide +kernel⟩, ⟨_, rfl, by decide +kernel⟩,
    ⟨_, rfl, by decide +kernel⟩, ⟨_, rfl, by decide +kernel⟩, ⟨_, rfl, by decide +kernel⟩, ⟨_, rfl, by decide +kernel⟩,
    ⟨_, rfl, by decide +kernel⟩, ⟨_, rfl, by decide +kernel⟩, ⟨_, rfl, by decide +kernel⟩, ⟨_, rfl, Nat.one_ne_zero⟩,
    rfl, rfl, by decide, by decide, by decide⟩

/-- A STATUS read while BUSY = 1; in A_ENC, a command that is not PERM. -/
theorem test_witness_DisciplinedHost :
    ((hosting [rd .status 0] (busyWith 0 State.reset)).rst = false ∧
      hostDisciplined (hosting [rd .status 0] (busyWith 0 State.reset)) = true ∧
      ∃ t, hostTurn (hosting [rd .status 0] (busyWith 0 State.reset)) = .next t) ∧
    (hostDisciplined (hosting [wr .cmd 0x17] (idleAt .schwaemm128_128 .aEnc)) = true ∧
      midOperation (idleAt .schwaemm128_128 .aEnc).phase = true ∧ keyHeld (idleAt .schwaemm128_128 .aEnc).phase = true ∧
      ∃ t, hostTurn (hosting [wr .cmd 0x17] (idleAt .schwaemm128_128 .aEnc)) = .next t ∧
        t.pending ≠ (idleAt .schwaemm128_128 .aEnc).pending ∧ t.pending = some 0x17) :=
  ⟨⟨rfl, by decide, _, rfl⟩, by decide +kernel, by decide, by decide, _, rfl, by decide, rfl⟩

theorem test_witness_ResetEvent :
    { State.reset with rst := true }.rst = true ∧
    { State.reset with turns := [.rst true] }.turns = .rst true :: [] ∧
    { State.reset with rst := true, turns := [.rst false] }.turns = .rst false :: [] := by decide

/-- A state with a command in flight meets the invariant, and its step answers a next state. -/
theorem test_witness_StepKeepsInvariant :
    Invariant (busyWith 0x00000008 State.reset) ∧ ∃ t, step (busyWith 0x00000008 State.reset) = .next t :=
  ⟨by constructor <;> decide, _, rfl⟩

/-- Each clause: a refused word in flight, a refused CONFIG value, a STATUS write of bit 2 that clears ERR, and a reset. -/
theorem test_witness_ErrRules :
    (busyWith 3 State.reset).busy = true ∧ (busyWith 3 State.reset).rst = false ∧
    (busyWith 3 State.reset).pending = some 3 ∧ checkWord 3 .esch256 .idle ≠ .noError ∧
    checkWord 0 .esch256 .idle = .noError ∧ 4 < (5 : Word).toNat ∧ (4 : Word).getLsbD 2 = true ∧
    (∃ t, step (hosting [.write 0x008 4 4] (refuse .illegal State.reset)) = .next t ∧
      (refuse .illegal State.reset).err = true ∧ t.err = false) ∧
    ∃ t, step { refuse .illegal State.reset with rst := true, turns := [.rst false] } = .next t ∧ t.err = false :=
  ⟨rfl, rfl, rfl, by decide +kernel, by decide +kernel, by decide, by decide, ⟨_, rfl, rfl, rfl⟩, _, rfl, rfl⟩

theorem test_witness_StepNeverStops : HostAdmitted (hosting [wr .cmd 8, .poll, rd .status 0] State.reset) := by
  unfold HostAdmitted
  decide

end Sys2Proof.Tests
end

section
/-! PROOFS. Words as bytes: which byte of a file, of a block, of a padded block and of the words made of a byte string
stands where (00_scope.md R13, 41_hash.md R161). -/

namespace Sys2Proof.Proofs.Bytes

open Sys2Proof.Machine Sys2Proof.Safety

/-! The bytes of words. -/

/-- Byte `j` of the word of four bytes: each of its bits is a bit of one of them. -/
theorem extractLsb'_wordOfBytes (b0 b1 b2 b3 : Byte) (j : Nat) (hj : j < 4) :
    (wordOfBytes b0 b1 b2 b3).extractLsb' (8 * j) 8 = [b0, b1, b2, b3].getD j 0 := by
  apply BitVec.eq_of_getLsbD_eq
  intro k hk
  interval_cases j <;> interval_cases k <;> simp [wordOfBytes]

/-- Byte `j` of word `i` of `words(b)` is byte `4i + j` of the string. -/
theorem extractLsb'_wordAt (b : List Byte) (i j : Nat) (hj : j < 4) :
    (wordAt b i).extractLsb' (8 * j) 8 = b.getD (4 * i + j) 0 := by
  rw [wordAt, extractLsb'_wordOfBytes _ _ _ _ j hj]
  interval_cases j <;> rfl

theorem wordsOf_getD (k : Nat) (b : List Byte) (i : Nat) (hi : i < k) : (wordsOf k b).getD i 0 = wordAt b i := by
  simp [wordsOf, List.getD, hi]

theorem wordBytes_getD (w : Word) (k : Nat) (hk : k < 4) : (wordBytes w).getD k 0 = w.extractLsb' (8 * k) 8 := by
  interval_cases k <;> rfl

theorem length_bytesOf (ws : List Word) : (bytesOf ws).length = 4 * ws.length := by
  simp [bytesOf, wordBytes, Nat.mul_comm]

/-- Byte `k` of a list of words is byte `k % 4` of word `k / 4`, and 0 beyond the list. -/
theorem bytesOf_getD (ws : List Word) (k : Nat) :
    (bytesOf ws).getD k 0 = (ws.getD (k / 4) 0).extractLsb' (8 * (k % 4)) 8 := by
  induction ws generalizing k with
  | nil => simp [bytesOf]
  | cons w ws ih =>
    have hcons : bytesOf (w :: ws) = wordBytes w ++ bytesOf ws := rfl
    rw [hcons]
    rcases Nat.lt_or_ge k 4 with hk | hk
    · rw [List.getD_append _ _ _ _ hk, wordBytes_getD w k hk, Nat.div_eq_of_lt hk, Nat.mod_eq_of_lt hk]
      rfl
    · obtain ⟨m, rfl⟩ : ∃ m, k = m + 4 := ⟨k - 4, by omega⟩
      rw [List.getD_append_right _ _ _ _ hk]
      simpa [wordBytes, Nat.add_div_right] using ih m

/-! The block of a command. -/

/-- Byte `k` of a file is byte `k` of its words. -/
theorem bytesOf_toList_getD {n : Nat} (v : Vector Word n) (k : Nat) : (bytesOf v.toList).getD k 0 = fileByte v k :=
  bytesOf_getD v.toList k

theorem length_blockBytes (n : Nat) (din : Vector Word 8) (hn : n ≤ 32) : (blockBytes n din).length = n := by
  simp [blockBytes, length_bytesOf, hn]

/-- The block of `n` bytes holds the first `n` bytes of DIN. -/
theorem blockBytes_getD (n : Nat) (din : Vector Word 8) (k : Nat) (hk : k < n) :
    (blockBytes n din).getD k 0 = fileByte din k := by
  rw [← bytesOf_toList_getD]
  simp [blockBytes, List.getD, hk]

/-- The first `r` words of a file, as a list. -/
theorem take_toList_getD {n : Nat} (v : Vector Word n) (r k : Nat) (hk : k < r) :
    (v.toList.take r).getD k 0 = getW v k := by
  simp [getW, List.getD, hk]

/-- The full block of `n` words holds the first `n` words of DIN. -/
theorem blockWords_getD (n : Nat) (din : Vector Word 8) (k : Nat) (hk : k < n) :
    (blockWords n din).getD k 0 = getW din k :=
  take_toList_getD din n k hk

/-- The first `4r` bytes of a file are those of its first `r` words. -/
theorem bytesOf_take_getD {n : Nat} (v : Vector Word n) (r k : Nat) (hk : k < 4 * r) :
    (bytesOf (v.toList.take r)).getD k 0 = fileByte v k := by
  rw [bytesOf_getD, take_toList_getD v r (k / 4) (by omega)]
  rfl

/-- Bytewise XOR, byte by byte. -/
theorem xorBytes_getD (a b : List Byte) (k : Nat) (ha : k < a.length) (hb : k < b.length) :
    (xorBytes a b).getD k 0 = a.getD k 0 ^^^ b.getD k 0 := by
  simp [xorBytes, List.getD, ha, hb]

/-! Padding. -/

/-- Padding, byte by byte (41_hash.md R161). -/
theorem pad_getD (b : List Byte) (rb k : Nat) (hk : k < rb) :
    (pad b rb).getD k 0 = paddedByte b.length (fun k => b.getD k 0) k := by
  unfold pad paddedByte
  split
  · next hfull => rw [if_pos (by omega)]
  · split
    · next hin => exact List.getD_append _ _ _ _ hin
    · rw [List.getD_append_right _ _ _ _ (by omega)]
      split
      · next hend => simp [hend]
      · next hin hend =>
        obtain ⟨m, hm⟩ : ∃ m, k - b.length = m + 1 := ⟨k - b.length - 1, by omega⟩
        rw [hm, List.getD_cons_succ, List.getD_eq_getElem?_getD, List.getElem?_getD_replicate_default_eq]

/-- A padded byte depends on the block's bytes only. -/
theorem paddedByte_congr {n : Nat} {b c : Nat → Byte} (h : ∀ k < n, b k = c k) (k : Nat) :
    paddedByte n b k = paddedByte n c k := by
  unfold paddedByte
  split
  · next hk => exact h k hk
  · rfl

/-- The words of a padded block `b` of `n` bytes `f 0 .. f (n-1)` hold its padded bytes. -/
theorem wordsOf_pad_holdsBytes {R n : Nat} {b : List Byte} {f : Nat → Byte} (hlen : b.length = n)
    (hf : ∀ k < n, b.getD k 0 = f k) :
    HoldsBytes R (paddedByte n f) fun i => (wordsOf R (pad b (4 * R))).getD i 0 := by
  intro i hi j hj
  subst hlen
  calc ((wordsOf R (pad b (4 * R))).getD i 0).extractLsb' (8 * j) 8
      = (pad b (4 * R)).getD (4 * i + j) 0 := by rw [wordsOf_getD _ _ _ hi, extractLsb'_wordAt _ _ _ hj]
    _ = paddedByte b.length (fun k => b.getD k 0) (4 * i + j) := pad_getD b _ _ (by omega)
    _ = paddedByte b.length f (4 * i + j) := paddedByte_congr hf _

end Sys2Proof.Proofs.Bytes
end

section
/-! PROOFS. The commands that are performed: a passed check and the completed effect (60_exceptions.md R240 to R245). -/

namespace Sys2Proof.Proofs.Commands

open Sys2Proof.Machine Sys2Proof.Safety

/-- A command whose check passes completes with its effect. -/
theorem exec_performed {i : Instr} {s : State} (h : execCheck i s = .noError) :
    exec i s = .next (completed (execEffect i s)) := by
  rw [exec_eq, h, performCmd_admitted]
  rfl

/-- The check of a command passes under its variants, in an admitted phase and with an admitted length. -/
theorem checkAll_passes {variantOk lenOk : Bool} {phase : Phase} {ps : List Phase} (hvariant : variantOk = true)
    (hphase : phase ∈ ps) (hlen : lenOk = true) : checkAll variantOk (phase ∈ ps) lenOk = .noError :=
  checkAll_eq_noError.2 ⟨hvariant, decide_eq_true hphase, hlen⟩

end Sys2Proof.Proofs.Commands
end

section
/-! PROOFS. The Schwaemm operations word by word and byte by byte (42_aead.md R191 to R211), in the terms of the
statements. -/

namespace Sys2Proof.Proofs.Aead

open Sys2Proof.Machine Sys2Proof.Safety Sys2Proof.Proofs.Bytes

/-! The rows of 00_scope.md R8. -/

/-- The row of a variant, in the model's own parameters. -/
def rowOf (V : Variant) : AeadRow :=
  { variant := V, nb := V.nb, R := V.R, CW := V.CW, slim := V.slim, big := V.big }

/-- A row of the table gives the model's parameters of its variant, a Schwaemm one. -/
theorem eq_rowOf_of_mem_aeadRows {p : AeadRow} {V : Variant} (hp : p ∈ aeadRows) (hV : V = p.variant) :
    V.isSchwaemm = true ∧ p = rowOf V := by
  subst hV
  simp only [aeadRows, List.mem_cons, List.not_mem_nil, or_false] at hp
  obtain rfl | rfl | rfl := hp <;> exact ⟨rfl, rfl⟩

theorem isSchwaemm_cases {V : Variant} (hV : V.isSchwaemm = true) :
    V = .schwaemm128_128 ∨ V = .schwaemm192_192 ∨ V = .schwaemm256_128 := by
  cases V <;> simp [Variant.isSchwaemm] at hV ⊢

/-- Rate and capacity of a Schwaemm variant fit DIN, KEY and DOUT (42_aead.md R190). -/
theorem isSchwaemm_sizes {V : Variant} (hV : V.isSchwaemm = true) : V.R ≤ 8 ∧ V.CW ≤ 8 := by
  obtain rfl | rfl | rfl := isSchwaemm_cases hV <;> decide

/-- The constants A0, A1, M2, M3 in numbers (42_aead.md R196). -/
theorem aeadConst_eq_domainConst {V : Variant} (hV : V.isSchwaemm = true) {k : Nat} (hk : k < 4) :
    V.aeadConst k = domainConst V k := by
  obtain rfl | rfl | rfl := isSchwaemm_cases hV <;> interval_cases k <;> rfl

theorem aeadLenOk_of_le {V : Variant} {len : BitVec 6} (h1 : 1 ≤ len.toNat) (h2 : len.toNat ≤ 4 * V.R) :
    aeadLenOk V len = true := by
  simp [aeadLenOk, Variant.RB, h1, h2]

/-! The state: nonce and key, absorption, constants, the key in the capacity. -/

/-- Nonce, key and zero words of AEAD_INIT (42_aead.md R193). -/
theorem getW_loadNonceKey (V : Variant) (nonce key : Vector Word 8) (S : Vector Word 16) (k : Nat) (hk : k < 16) :
    getW (loadNonceKey V nonce key S) k =
      if k < V.R then getW nonce k else if k < V.R + V.CW then getW key (k - V.R) else 0 := by
  simp only [loadNonceKey, getW_fill _ _ _ _ k hk]
  rcases Nat.lt_or_ge k V.R with hrate | hrate
  · rw [if_neg (by omega), if_neg (by omega), if_pos (by omega), if_pos hrate, Nat.sub_zero]
  rcases Nat.lt_or_ge k (V.R + V.CW) with hcap | hcap
  · rw [if_neg (by omega), if_pos ⟨hrate, hcap⟩, if_neg (by omega), if_pos hcap]
  · rw [if_pos (by omega), if_neg (by omega), if_neg (by omega)]

/-- The model's absorption is that of R192, for any `Q` whose first words are those of the block. -/
theorem absorb_absorbed {V : Variant} {P : List Word} {Q : Nat → Word} (S : Vector Word 16) (hR : V.R ≤ 16)
    (h : ∀ i < V.R, P.getD i 0 = Q i) : Absorbed V.R V.CW Q S (absorb V P S) := by
  constructor
  · intro i hi
    rw [absorb, getW_fill _ _ _ _ i (by omega), if_pos ⟨Nat.zero_le i, by omega⟩, Nat.sub_zero, h i hi]
    rfl
  · intro i hi hle
    rw [absorb, getW_fill _ _ _ _ i hi, if_neg (by omega)]

/-- The injected constant is the one of R196, in the last capacity word. -/
theorem injectConst_marked {V : Variant} (hV : V.isSchwaemm = true) {k : Nat} (hk : k < 4) (S : Vector Word 16) :
    Marked (2 * V.nb - 1) (domainConst V k) S (injectConst V k S) := by
  intro i hi
  rw [injectConst, getW_setW _ _ _ _ hi, aeadConst_eq_domainConst hV hk]
  by_cases h : i = 2 * V.nb - 1
  · rw [if_pos h.symm, if_pos h, h]
  · rw [if_neg (Ne.symm h), if_neg h]

/-- The capacity after the key is XORed into it (42_aead.md R207), word by word. -/
theorem getW_xorKey_capacity (V : Variant) (key : Vector Word 8) (S : Vector Word 16) (k : Nat) (hk : k < V.CW)
    (h16 : V.R + V.CW ≤ 16) :
    getW (xorKey V key S) (V.R + k) = getW S (V.R + k) ^^^ getW key k := by
  rw [xorKey, getW_fill _ _ _ _ _ (by omega), if_pos (by omega), Nat.add_sub_cancel_left]

/-- The key XOR leaves every word outside the capacity. -/
theorem getW_xorKey_other (V : Variant) (key : Vector Word 8) (S : Vector Word 16) (k : Nat)
    (hk : k < V.R ∨ V.R + V.CW ≤ k) : getW (xorKey V key S) k = getW S k := by
  rcases Nat.lt_or_ge k 16 with h | h
  · rw [xorKey, getW_fill _ _ _ _ k h, if_neg (by omega)]
  · rw [getW_out _ _ h, getW_out _ _ h]

/-! The output register. -/

/-- Byte `k` of DOUT is byte `k` of the output string, 0 beyond it (42_aead.md R199). -/
theorem fileByte_doutOf (out : List Byte) (k : Nat) (hk : k < 32) : fileByte (doutOf out) k = out.getD k 0 := by
  have hword : k / 4 < 8 := by omega
  have hbyte : k % 4 < 4 := Nat.mod_lt k (by decide)
  rw [fileByte, doutOf, getW_fileOf _ _ hword, wordsOf_getD _ _ _ hword, extractLsb'_wordAt _ _ _ hbyte,
    Nat.div_add_mod]

theorem getW_doutOfWords (ws : List Word) (k : Nat) (hk : k < 8) : getW (doutOfWords ws) k = ws.getD k 0 :=
  getW_fileOf _ k hk

theorem dataWords_getD (V : Variant) (S : Vector Word 16) (din : Vector Word 8) (k : Nat) (hk : k < V.R) :
    (dataWords V S din).getD k 0 = getW S k ^^^ getW din k := by
  simp [dataWords, List.getD, hk]

/-- DOUT of an interior block: the rate XOR DIN (42_aead.md R200, R204). -/
theorem getW_doutOfWords_dataWords {V : Variant} (hR : V.R ≤ 8) (S : Vector Word 16) (din : Vector Word 8) (k : Nat)
    (hk : k < V.R) : getW (doutOfWords (dataWords V S din)) k = getW S k ^^^ getW din k := by
  rw [getW_doutOfWords _ _ (by omega), dataWords_getD _ _ _ _ hk]

/-- DOUT of an interior block is zero beyond the rate. -/
theorem getW_doutOfWords_dataWords_beyond (V : Variant) (S : Vector Word 16) (din : Vector Word 8) (k : Nat)
    (hk : V.R ≤ k) : getW (doutOfWords (dataWords V S din)) k = 0 := by
  rcases Nat.lt_or_ge k 8 with h | h
  · rw [getW_doutOfWords _ _ h]
    exact List.getD_eq_default _ _ (by simpa [dataWords] using hk)
  · exact getW_out _ _ h

theorem length_bytesOf_rate {V : Variant} (S : Vector Word 16) (hR : V.R ≤ 16) :
    (bytesOf (S.toList.take V.R)).length = 4 * V.R := by
  rw [length_bytesOf, List.length_take, Vector.length_toList, Nat.min_eq_left hR]

/-- The output of a data block is as long as its input, which fits the rate. -/
theorem length_dataOut {V : Variant} (S : Vector Word 16) {input : List Byte} (hR : V.R ≤ 16)
    (hin : input.length ≤ 4 * V.R) : (dataOut V S input).length = input.length := by
  rw [dataOut, xorBytes, List.length_take, List.length_zipWith, length_bytesOf_rate S hR,
    Nat.min_eq_right hin, Nat.min_self]

/-- The output of a data block: the rate XOR the input, byte by byte (42_aead.md R199). -/
theorem dataOut_getD {V : Variant} (S : Vector Word 16) {input : List Byte} (hR : V.R ≤ 16)
    (hin : input.length ≤ 4 * V.R) {k : Nat} (hk : k < input.length) :
    (dataOut V S input).getD k 0 = fileByte S k ^^^ input.getD k 0 := by
  have hrate : k < (bytesOf (S.toList.take V.R)).length := by
    rw [length_bytesOf_rate S hR]
    omega
  have htake : (dataOut V S input).getD k 0 = (xorBytes (bytesOf (S.toList.take V.R)) input).getD k 0 := by
    simp [dataOut, List.getD, hk]
  rw [htake, xorBytes_getD _ _ _ hrate hk, bytesOf_take_getD _ _ _ (by omega)]

/-- DOUT of a last block: the first `n` bytes are the rate XOR DIN, the others 0 (42_aead.md R201, R205). -/
theorem fileByte_doutOf_dataOut {V : Variant} (S : Vector Word 16) (din : Vector Word 8) {n : Nat} (hR : V.R ≤ 8)
    (hn : n ≤ 4 * V.R) (k : Nat) (hk : k < 32) :
    fileByte (doutOf (dataOut V S (blockBytes n din))) k = if k < n then fileByte S k ^^^ fileByte din k else 0 := by
  have hlen : (blockBytes n din).length = n := length_blockBytes n din (by omega)
  rw [fileByte_doutOf _ _ hk]
  split
  · next h => rw [dataOut_getD S (by omega) (by omega) (by omega), blockBytes_getD _ _ _ h]
  · next h => exact List.getD_eq_default _ _ (by rw [length_dataOut S (by omega) (by omega)]; omega)

/-! The tag. -/

/-- DOUT of AEAD_TAG: the capacity words, zero beyond them (42_aead.md R209). -/
def capacityOut (V : Variant) (S : Vector Word 16) : Vector Word 8 :=
  fill (zeros 8) 0 V.CW fun i => getW S (V.R + i)

theorem getW_capacityOut {V : Variant} (hCW : V.CW ≤ 8) (S : Vector Word 16) (k : Nat) (hk : k < V.CW) :
    getW (capacityOut V S) k = getW S (V.R + k) := by
  rw [capacityOut, getW_fill _ _ _ _ k (by omega), if_pos (by omega), Nat.sub_zero]

theorem getW_capacityOut_beyond (V : Variant) (S : Vector Word 16) (k : Nat) (hk : V.CW ≤ k) :
    getW (capacityOut V S) k = 0 := by
  rcases Nat.lt_or_ge k 8 with h | h
  · rw [capacityOut, getW_fill _ _ _ _ k h, if_neg (by omega), getW_zeros]
  · exact getW_out _ _ h

/-- The accumulator of R210 stays 0 exactly when every difference is 0. -/
theorem foldl_or_eq_zero (f : Nat → Word) (l : List Nat) (a : Word) :
    l.foldl (fun diff i => diff ||| f i) a = 0 ↔ a = 0 ∧ ∀ i ∈ l, f i = 0 := by
  induction l generalizing a with
  | nil => simp
  | cons i l ih =>
    have hor : a ||| f i = 0 ↔ a = 0 ∧ f i = 0 := BitVec.or_eq_zero_iff
    rw [List.foldl_cons, ih, hor, List.forall_mem_cons, and_assoc]

/-- The tags differ nowhere exactly when the accumulated difference is 0 (42_aead.md R210). -/
theorem tagDiff_eq_zero (V : Variant) (S : Vector Word 16) (tag : Vector Word 8) :
    tagDiff V S tag = 0 ↔ ∀ k < V.CW, getW S (V.R + k) = getW tag k := by
  rw [tagDiff, foldl_or_eq_zero]
  simp

end Sys2Proof.Proofs.Aead
end

section
/-! PROOFS. The parameter table and the result of each AEAD command. -/

namespace Sys2Proof.Proofs.Aead

open Sys2Proof.Machine Sys2Proof.Safety Sys2Proof.Proofs.Bytes Sys2Proof.Proofs.Commands

/-- Settles O22. -/
theorem variantTable : Obligations.VariantTable :=
  ⟨rfl, ⟨rfl, rfl⟩, ⟨rfl, rfl⟩, rfl, rfl, rfl⟩

/-- Settles O28: nonce, key and zeros word by word. -/
theorem aeadInitResult : Obligations.AeadInitResult := by
  intro p s hp hv
  obtain ⟨hS, rfl⟩ := eq_rowOf_of_mem_aeadRows hp hv
  obtain ⟨hR, hCW⟩ := isSchwaemm_sizes hS
  refine ⟨loadNonceKey s.variant s.din s.key s.S, zeros 8, ?rate, ?capacity, ?rest, getW_zeros,
    exec_performed (checkAll_eq_noError.2 ⟨hS, rfl, rfl⟩)⟩
  case rate =>
    intro k (hk : k < s.variant.R)
    rw [getW_loadNonceKey _ _ _ _ _ (by omega), if_pos hk]
  case capacity =>
    intro k (hk : k < s.variant.CW)
    change getW _ (s.variant.R + k) = _
    rw [getW_loadNonceKey _ _ _ _ _ (by omega), if_neg (by omega), if_pos (by omega), Nat.add_sub_cancel_left]
  case rest =>
    intro k (hk : s.variant.R + s.variant.CW ≤ k)
    rcases Nat.lt_or_ge k 16 with h | h
    · rw [getW_loadNonceKey _ _ _ _ _ h, if_neg (by omega), if_neg (by omega)]
    · exact getW_out _ _ h

/-- Settles O29. -/
theorem aeadAdResult : Obligations.AeadAdResult := by
  intro p s hp hv hphase
  obtain ⟨hS, rfl⟩ := eq_rowOf_of_mem_aeadRows hp hv
  obtain ⟨hR, -⟩ := isSchwaemm_sizes hS
  exact ⟨absorb s.variant (blockWords s.variant.R s.din) s.S,
    absorb_absorbed _ (by omega) (blockWords_getD _ _),
    exec_performed (checkAll_passes hS hphase rfl)⟩

/-- Settles O30: the constant first, then the padded block of LEN bytes. -/
theorem aeadAdLastResult : Obligations.AeadAdLastResult := by
  intro p len s hp hv hphase hlen1 hlen
  obtain ⟨hS, rfl⟩ := eq_rowOf_of_mem_aeadRows hp hv
  replace hlen : len.toNat ≤ 4 * s.variant.R := hlen
  obtain ⟨hR, -⟩ := isSchwaemm_sizes hS
  let P := wordsOf s.variant.R (pad (blockBytes len.toNat s.din) s.variant.RB)
  exact ⟨markLastAd s.variant len.toNat s.S, absorb s.variant P (markLastAd s.variant len.toNat s.S),
    fun i => P.getD i 0,
    injectConst_marked hS (by split <;> decide) s.S,
    wordsOf_pad_holdsBytes (length_blockBytes _ _ (by omega)) (blockBytes_getD _ _),
    absorb_absorbed _ (by omega) (fun _ _ => rfl),
    exec_performed (checkAll_passes hS hphase (aeadLenOk_of_le hlen1 hlen))⟩

/-- Settles O31. -/
theorem aeadEncResult : Obligations.AeadEncResult := by
  intro p s hp hv hphase
  obtain ⟨hS, rfl⟩ := eq_rowOf_of_mem_aeadRows hp hv
  obtain ⟨hR, -⟩ := isSchwaemm_sizes hS
  exact ⟨absorb s.variant (blockWords s.variant.R s.din) s.S, doutOfWords (dataWords s.variant s.S s.din),
    getW_doutOfWords_dataWords hR _ _, getW_doutOfWords_dataWords_beyond _ _ _,
    absorb_absorbed _ (by omega) (blockWords_getD _ _),
    exec_performed (checkAll_passes hS hphase rfl)⟩

/-- Settles O32: the padded plaintext of DIN is absorbed. -/
theorem aeadEncLastResult : Obligations.AeadEncLastResult := by
  intro p len s hp hv hphase hlen1 hlen
  obtain ⟨hS, rfl⟩ := eq_rowOf_of_mem_aeadRows hp hv
  replace hlen : len.toNat ≤ 4 * s.variant.R := hlen
  obtain ⟨hR, -⟩ := isSchwaemm_sizes hS
  let M := markLastData s.variant len.toNat s.S
  let block := blockBytes len.toNat s.din
  let P := wordsOf s.variant.R (pad block s.variant.RB)
  exact ⟨M, absorb s.variant P M, doutOf (dataOut s.variant M block), fun i => P.getD i 0,
    injectConst_marked hS (by split <;> decide) s.S,
    fileByte_doutOf_dataOut M _ hR hlen,
    wordsOf_pad_holdsBytes (length_blockBytes _ _ (by omega)) (blockBytes_getD _ _),
    absorb_absorbed _ (by omega) (fun _ _ => rfl),
    exec_performed (checkAll_passes hS hphase (aeadLenOk_of_le hlen1 hlen))⟩

/-- Settles O33: what is absorbed is DOUT. -/
theorem aeadDecResult : Obligations.AeadDecResult := by
  intro p s hp hv hphase
  obtain ⟨hS, rfl⟩ := eq_rowOf_of_mem_aeadRows hp hv
  obtain ⟨hR, -⟩ := isSchwaemm_sizes hS
  let M := dataWords s.variant s.S s.din
  have habsorbed : ∀ i < s.variant.R, M.getD i 0 = getW (doutOfWords M) i :=
    fun i hi => (getW_doutOfWords M i (by omega)).symm
  exact ⟨absorb s.variant M s.S, doutOfWords M,
    getW_doutOfWords_dataWords hR _ _, getW_doutOfWords_dataWords_beyond _ _ _,
    absorb_absorbed _ (by omega) habsorbed,
    exec_performed (checkAll_passes hS hphase rfl)⟩

/-- Settles O34: the bytes padded and absorbed are those of DOUT. -/
theorem aeadDecLastResult : Obligations.AeadDecLastResult := by
  intro p len s hp hv hphase hlen1 hlen
  obtain ⟨hS, rfl⟩ := eq_rowOf_of_mem_aeadRows hp hv
  replace hlen : len.toNat ≤ 4 * s.variant.R := hlen
  obtain ⟨hR, -⟩ := isSchwaemm_sizes hS
  let M := markLastData s.variant len.toNat s.S
  let plain := dataOut s.variant M (blockBytes len.toNat s.din)
  let P := wordsOf s.variant.R (pad plain s.variant.RB)
  have hblock : (blockBytes len.toNat s.din).length = len.toNat := length_blockBytes _ _ (by omega)
  have hplain : plain.length = len.toNat := (length_dataOut M (by omega) (by omega)).trans hblock
  have hdout : ∀ k < len.toNat, plain.getD k 0 = fileByte (doutOf plain) k :=
    fun k hk => (fileByte_doutOf plain k (by omega)).symm
  exact ⟨M, absorb s.variant P M, doutOf plain, fun i => P.getD i 0,
    injectConst_marked hS (by split <;> decide) s.S,
    fileByte_doutOf_dataOut M _ hR hlen,
    wordsOf_pad_holdsBytes hplain hdout,
    absorb_absorbed _ (by omega) (fun _ _ => rfl),
    exec_performed (checkAll_passes hS hphase (aeadLenOk_of_le hlen1 hlen))⟩

/-- Settles O35: the capacity kept in S is the one put out. -/
theorem aeadTagResult : Obligations.AeadTagResult := by
  intro p s hp hv hphase
  obtain ⟨hS, rfl⟩ := eq_rowOf_of_mem_aeadRows hp hv
  obtain ⟨hR, hCW⟩ := isSchwaemm_sizes hS
  let T := xorKey s.variant s.key s.S
  exact ⟨T, capacityOut s.variant T,
    fun k hk => getW_xorKey_capacity _ _ _ k hk (by omega),
    getW_xorKey_other _ _ _,
    getW_capacityOut hCW T, getW_capacityOut_beyond _ T,
    exec_performed (checkAll_passes hS hphase rfl)⟩

/-- Settles O36: the accumulated difference is 0 exactly when every word matches. -/
theorem aeadVerifyResult : Obligations.AeadVerifyResult := by
  intro p s hp hv hphase
  obtain ⟨hS, rfl⟩ := eq_rowOf_of_mem_aeadRows hp hv
  obtain ⟨hR, hCW⟩ := isSchwaemm_sizes hS
  let T := xorKey s.variant s.key s.S
  have hcapacity : ∀ k < s.variant.CW, getW T (s.variant.R + k) = getW s.S (s.variant.R + k) ^^^ getW s.key k :=
    fun k hk => getW_xorKey_capacity _ _ _ k hk (by omega)
  refine ⟨T, tagDiff s.variant T s.din == 0, hcapacity, getW_xorKey_other _ _ _, ?verified,
    exec_performed (checkAll_passes hS hphase rfl)⟩
  case verified =>
    rw [beq_iff_eq, tagDiff_eq_zero]
    exact forall₂_congr fun k hk => by rw [hcapacity k hk]; rfl

end Sys2Proof.Proofs.Aead
end

section
/-! PROOFS. The register window (20_memory.md R75 to R79): what an admitted access does, register by register, and what a
move of the host can do. -/

namespace Sys2Proof.Proofs.Window

open Sys2Proof.Machine Sys2Proof.Safety

/-! Admitted accesses. -/

theorem window_admitted {off : Nat} (hlt : off < 0x100) (halign : off % 4 = 0) (k : Reg → Out) :
    window off 4 k = k (regAt off) := by
  simp [window, halign, hlt]

theorem hostWrite_admitted {off : Nat} (hlt : off < 0x100) (halign : off % 4 = 0) (v : Word) (s : State) :
    hostWrite off 4 v s = .next (writeReg (regAt off) v s) :=
  window_admitted hlt halign _

theorem hostRead_admitted {off : Nat} (hlt : off < 0x100) (halign : off % 4 = 0) (k : Word → State → Out) (s : State) :
    hostRead off 4 k s = k (readReg (regAt off) s).1 (readReg (regAt off) s).2 :=
  window_admitted hlt halign _

/-! Reads and writes by register. -/

/-- While rst is not asserted a register other than DOUT and STATE reads as its value (R79). -/
theorem readReg_value {r : Reg} {s : State} (hrst : s.rst = false) (hdout : ∀ i, r ≠ .dout i)
    (hstate : ∀ i, r ≠ .state i) : readReg r s = (regValue r s, s) := by
  cases r with
  | dout i => exact absurd rfl (hdout i)
  | state i => exact absurd rfl (hstate i)
  | _ => simp [readReg, hrst]

/-- While rst is asserted a write has no effect (70_reset_and_hazards.md R280). -/
theorem writeReg_rst {r : Reg} {v : Word} {s : State} (hrst : s.rst = true) : writeReg r v s = s := by
  simp [writeReg, hrst]

/-- The register whose write is dropped while BUSY = 1 sets OVR and nothing else (R79). -/
theorem writeReg_busy {r : Reg} {v : Word} {s : State} (hrst : s.rst = false) (hbusy : s.busy = true)
    (hr : droppedWhileBusy r = true) : writeReg r v s = dropWrite s := by
  cases r <;> simp [droppedWhileBusy] at hr <;> simp [writeReg, hrst, hbusy]

theorem writeReg_ctrl {v : Word} {s : State} (hrst : s.rst = false) :
    writeReg .ctrl v s = { s with irqen := v.getLsbD 0 } := by
  simp [writeReg, hrst]

theorem writeReg_status {v : Word} {s : State} (hrst : s.rst = false) :
    writeReg .status v s = writeStatus v s := by
  simp [writeReg, hrst]

theorem writeReg_config {v : Word} {s : State} (hrst : s.rst = false) (hbusy : s.busy = false) :
    writeReg .config v s = writeConfig v s := by
  simp [writeReg, hrst, hbusy]

theorem writeReg_cmd {w : Word} {s : State} (hrst : s.rst = false) (hbusy : s.busy = false) :
    writeReg .cmd w s = accept w s := by
  simp [writeReg, hrst, hbusy]

theorem writeReg_key {i : Fin 8} {v : Word} {s : State} (hrst : s.rst = false) (hbusy : s.busy = false) :
    writeReg (.key i) v s = { s with key := s.key.set i v } := by
  simp [writeReg, hrst, hbusy]

theorem writeReg_din {i : Fin 8} {v : Word} {s : State} (hrst : s.rst = false) (hbusy : s.busy = false) :
    writeReg (.din i) v s = { s with din := s.din.set i v } := by
  simp [writeReg, hrst, hbusy]

theorem writeReg_state {i : Fin 16} {v : Word} {s : State} (hrst : s.rst = false) (hbusy : s.busy = false) :
    writeReg (.state i) v s = { s with S := s.S.set i v } := by
  simp [writeReg, hrst, hbusy]

/-- What a write of `v` to `r` can make of `s`: it is ignored, it is dropped, or it has the effect of its register. -/
inductive WriteEffect (r : Reg) (v : Word) (s : State) : State → Prop where
  | ignored : WriteEffect r v s s
  | dropped : WriteEffect r v s (dropWrite s)
  | ctrl : WriteEffect r v s { s with irqen := v.getLsbD 0 }
  | status (hr : r = .status) : WriteEffect r v s (writeStatus v s)
  | config : WriteEffect r v s (writeConfig v s)
  | accepted (hrst : s.rst = false) : WriteEffect r v s (accept v s)
  | file (K D : Vector Word 8) (S : Vector Word 16) : WriteEffect r v s { s with key := K, din := D, S := S }

/-- A write has one of the effects above. -/
theorem writeReg_effect (r : Reg) (v : Word) (s : State) : WriteEffect r v s (writeReg r v s) := by
  by_cases hrst : s.rst = true
  · rw [writeReg_rst hrst]
    exact .ignored
  replace hrst : s.rst = false := by simpa using hrst
  by_cases hdrop : s.busy = true ∧ droppedWhileBusy r = true
  · rw [writeReg_busy hrst hdrop.1 hdrop.2]
    exact .dropped
  have hidle : droppedWhileBusy r = true → s.busy = false := fun hr => Bool.eq_false_iff.2 fun hb => hdrop ⟨hb, hr⟩
  cases r with
  | id | dout _ | reserved => simpa [writeReg] using WriteEffect.ignored
  | ctrl => exact writeReg_ctrl hrst ▸ .ctrl
  | status => exact writeReg_status hrst ▸ .status rfl
  | config => exact writeReg_config hrst (hidle rfl) ▸ .config
  | cmd => exact writeReg_cmd hrst (hidle rfl) ▸ .accepted hrst
  | key i => exact writeReg_key hrst (hidle rfl) ▸ .file _ s.din s.S
  | din i => exact writeReg_din hrst (hidle rfl) ▸ .file s.key _ s.S
  | state i => exact writeReg_state hrst (hidle rfl) ▸ .file s.key s.din _

/-! Reads and writes by offset (20_memory.md R72). -/

/-- An access at the offset of a register other than DOUT and STATE reads the register's value. -/
theorem hostRead_value {off : Nat} {r : Reg} {s : State} (hreg : regAt off = r) (hlt : off < 0x100)
    (halign : off % 4 = 0) (hdout : ∀ i, r ≠ .dout i) (hstate : ∀ i, r ≠ .state i) (hrst : s.rst = false)
    (k : Word → State → Out) : hostRead off 4 k s = k (regValue r s) s := by
  rw [hostRead_admitted hlt halign, hreg, readReg_value hrst hdout hstate]

/-- A write at the offset of a register has the register's effect. -/
theorem hostWrite_effect {off : Nat} {r : Reg} {v : Word} {s t : State} (hreg : regAt off = r) (hlt : off < 0x100)
    (halign : off % 4 = 0) (heffect : writeReg r v s = t) : hostWrite off 4 v s = .next t := by
  rw [hostWrite_admitted hlt halign, hreg, heffect]

theorem hostWrite_ctrl {v : Word} {s : State} (hrst : s.rst = false) :
    hostWrite 0x004 4 v s = .next { s with irqen := v.getLsbD 0 } :=
  hostWrite_effect rfl (by decide) (by decide) (writeReg_ctrl hrst)

theorem hostWrite_status {v : Word} {s : State} (hrst : s.rst = false) :
    hostWrite 0x008 4 v s = .next (writeStatus v s) :=
  hostWrite_effect rfl (by decide) (by decide) (writeReg_status hrst)

theorem hostWrite_config {v : Word} {s : State} (hrst : s.rst = false) (hbusy : s.busy = false) :
    hostWrite 0x00C 4 v s = .next (writeConfig v s) :=
  hostWrite_effect rfl (by decide) (by decide) (writeReg_config hrst hbusy)

theorem hostWrite_cmd {w : Word} {s : State} (hrst : s.rst = false) (hbusy : s.busy = false) :
    hostWrite 0x010 4 w s = .next (accept w s) :=
  hostWrite_effect rfl (by decide) (by decide) (writeReg_cmd hrst hbusy)

theorem hostWrite_dropped {off : Nat} {v : Word} {s : State} (hlt : off < 0x100) (halign : off % 4 = 0)
    (hrst : s.rst = false) (hbusy : s.busy = true) (hr : droppedWhileBusy (regAt off) = true) :
    hostWrite off 4 v s = .next (dropWrite s) :=
  hostWrite_effect rfl hlt halign (writeReg_busy hrst hbusy hr)

/-! A CONFIG write (10_state.md R46). -/

/-- The variants' codes are 0 to 4; every greater one is reserved (30_encoding.md R107). -/
theorem variantOf_reserved {code : BitVec 4} (h : 4 < code.toNat) : variantOf code = none := by
  unfold variantOf
  split
  case h_6 => rfl
  all_goals omega

/-- A value above 4 is refused: it has a bit beyond bits 3:0, or a reserved code. -/
theorem writeConfig_refused {v : Word} (hv : 4 < v.toNat) (s : State) :
    writeConfig v s = { s with err := true, errcode := .variant } := by
  have hnone : (if v.extractLsb' 4 28 = 0 then variantOf (v.extractLsb' 0 4) else none) = none := by
    split
    · next hhigh =>
      replace hhigh := congrArg BitVec.toNat hhigh
      apply variantOf_reserved
      simp [BitVec.extractLsb'_toNat, Nat.shiftRight_eq_div_pow] at hhigh ⊢
      omega
    · rfl
  simp only [writeConfig, hnone]

/-! A move of the host. -/

/-- A read changes the model's count of free values at most (R75). -/
theorem readReg_snd (r : Reg) (s : State) : ∃ d, (readReg r s).2 = { s with draws := d } := by
  obtain h | ⟨-, h⟩ := readReg_cases r s <;> rw [h]
  · exact ⟨s.draws, rfl⟩
  · exact ⟨s.draws + 1, rfl⟩

/-- If a read answers a next state, its continuation does, on some value and the state it read from. -/
theorem hostRead_next {off width : Nat} {k : Word → State → Out} {s t : State} (h : hostRead off width k s = .next t) :
    ∃ v d, k v { s with draws := d } = .next t := by
  obtain ⟨-, -, -, h⟩ := window_next h
  obtain ⟨d, hd⟩ := readReg_snd (regAt off) s
  exact ⟨_, d, hd ▸ h⟩

/-- If a write answers a next state, it is 32 bits wide and has the effect of its register. -/
theorem hostWrite_next {off width : Nat} {v : Word} {s t : State} (h : hostWrite off width v s = .next t) :
    width = 4 ∧ t = writeReg (regAt off) v s := by
  obtain ⟨-, -, hwidth, h⟩ := window_next h
  exact ⟨hwidth, (Host.Outcome.next.inj h).symm⟩

/-- What a move of the host can do: a write of its next statement, or a change of the host's own data and of the model's
count of free values only. -/
theorem hostTurn_cases {s t : State} (h : hostTurn s = .next t) :
    (∃ off v rest, s.host = .write off 4 v :: rest ∧ t = writeReg (regAt off) v { s with host := rest }) ∨
    ∃ H B d, t = { s with host := H, bound := B, draws := d } := by
  unfold hostTurn at h
  split at h
  case h_1 => cases h; exact .inr ⟨_, _, _, rfl⟩
  case h_2 off width v rest hhost =>
    obtain ⟨rfl, ht⟩ := hostWrite_next h
    exact .inl ⟨off, v, rest, hhost, ht⟩
  case h_3 =>
    obtain ⟨v, d, hk⟩ := hostRead_next h
    cases hk
    exact .inr ⟨_, _, _, rfl⟩
  case h_4 =>
    obtain ⟨v, d, hk⟩ := hostRead_next h
    split at hk <;> cases hk <;> exact .inr ⟨_, _, _, rfl⟩
  case h_5 => split at h <;> cases h <;> exact .inr ⟨_, _, _, rfl⟩

/-- STATUS stands at offset 0x008 alone (20_memory.md R72). -/
theorem eq_of_regAt_eq_status {off : Nat} (h : regAt off = .status) : off = 0x008 := by
  unfold regAt at h
  split at h
  · split at h
    case h_3 => rfl
    all_goals cases h
  · repeat' split at h
    all_goals cases h

end Sys2Proof.Proofs.Window
end

section
/-! PROOFS. What a command changes (10_state.md R33 to R44): the fields Execute of every command leaves, and those Execute
of one command leaves. -/

namespace Sys2Proof.Proofs.Frame

open Sys2Proof.Machine Sys2Proof.Safety

/-- The commands that write VERIFIED (10_state.md R44). -/
def writesVerified : Instr → Bool
  | .clear | .aeadInit | .aeadVerify => true
  | _ => false

/-- The commands that write SQZCNT (10_state.md R43). -/
def writesSqzcnt : Instr → Bool
  | .clear | .hashInit | .hashLast _ | .hashSqueeze => true
  | _ => false

/-- Execute writes S and PHASE, KEY and DIN in CLEAR alone, DOUT, VERIFIED and SQZCNT in the commands of their tables,
and nothing else. -/
theorem execEffect_frame (i : Instr) (s : State) :
    execEffect i s =
      { s with
        S := (execEffect i s).S
        key := if i = .clear then zeros 8 else s.key
        din := if i = .clear then zeros 8 else s.din
        dout := if writesDout i then (execEffect i s).dout else s.dout
        verified := if writesVerified i then (execEffect i s).verified else s.verified
        phase := (execEffect i s).phase
        sqzcnt := if writesSqzcnt i then (execEffect i s).sqzcnt else s.sqzcnt } := by
  cases i <;>
    simp [execEffect, clearEffect, squeezeEffect, aeadInitEffect, aeadEncEffect, aeadEncLastEffect, aeadDecEffect,
      aeadDecLastEffect, aeadTagEffect, aeadVerifyEffect, writesDout, writesVerified, writesSqzcnt]

@[simp] theorem execEffect_irqen (i : Instr) (s : State) : (execEffect i s).irqen = s.irqen := by
  rw [execEffect_frame]

@[simp] theorem execEffect_err (i : Instr) (s : State) : (execEffect i s).err = s.err := by
  rw [execEffect_frame]

@[simp] theorem execEffect_errcode (i : Instr) (s : State) : (execEffect i s).errcode = s.errcode := by
  rw [execEffect_frame]

@[simp] theorem execEffect_ovr (i : Instr) (s : State) : (execEffect i s).ovr = s.ovr := by
  rw [execEffect_frame]

@[simp] theorem execEffect_variant (i : Instr) (s : State) : (execEffect i s).variant = s.variant := by
  rw [execEffect_frame]

@[simp] theorem execEffect_rst (i : Instr) (s : State) : (execEffect i s).rst = s.rst := by
  rw [execEffect_frame]

@[simp] theorem execEffect_host (i : Instr) (s : State) : (execEffect i s).host = s.host := by
  rw [execEffect_frame]

@[simp] theorem execEffect_bound (i : Instr) (s : State) : (execEffect i s).bound = s.bound := by
  rw [execEffect_frame]

@[simp] theorem execEffect_turns (i : Instr) (s : State) : (execEffect i s).turns = s.turns := by
  rw [execEffect_frame]

@[simp] theorem execEffect_draws (i : Instr) (s : State) : (execEffect i s).draws = s.draws := by
  rw [execEffect_frame]

theorem execEffect_key {i : Instr} (hi : i ≠ .clear) (s : State) : (execEffect i s).key = s.key := by
  rw [execEffect_frame]
  exact if_neg hi

theorem execEffect_din {i : Instr} (hi : i ≠ .clear) (s : State) : (execEffect i s).din = s.din := by
  rw [execEffect_frame]
  exact if_neg hi

theorem execEffect_dout {i : Instr} (hi : writesDout i = false) (s : State) : (execEffect i s).dout = s.dout := by
  rw [execEffect_frame]
  simp [hi]

theorem execEffect_verified {i : Instr} (hi : writesVerified i = false) (s : State) : (execEffect i s).verified = s.verified := by
  rw [execEffect_frame]
  simp [hi]

theorem execEffect_sqzcnt {i : Instr} (hi : writesSqzcnt i = false) (s : State) : (execEffect i s).sqzcnt = s.sqzcnt := by
  rw [execEffect_frame]
  simp [hi]

/-- Execute of an admitted command leaves the phase of the table of 60_exceptions.md R244. -/
theorem execEffect_phase {i : Instr} {s : State} (hcheck : execCheck i s = .noError) :
    (execEffect i s).phase =
      nextPhase i (decide ((s.sqzcnt + 1).toNat = s.variant.digestBytes / 16)) s.phase := by
  cases i with
  | hashSqueeze =>
    have hp : s.phase = .hSqueeze := by simpa using (checkAll_eq_noError.1 hcheck).2.1
    simp [execEffect, squeezeEffect, nextPhase, hp]
  | _ => rfl

/-- A field that the two ends of a command leave is the same after it if its Execute leaves it. -/
theorem exec_keeps {α : Type} (field : State → α) {i : Instr} {s t : State} (h : exec i s = .next t)
    (heffect : field (execEffect i s) = field s)
    (hcomplete : ∀ u, field (complete u) = field u := by intros; rfl)
    (hrefuse : ∀ c u, field (refuse c u) = field u := by intros; rfl) : field t = field s := by
  obtain ⟨-, hex⟩ | ⟨-, hex⟩ := exec_cases i s <;> rw [hex] at h <;> cases h
  · exact (hcomplete _).trans heffect
  · exact hrefuse _ _

/-- Settles O10: each field by the commands whose Execute writes it. -/
theorem commandFrame : Obligations.CommandFrame := by
  intro i s t h
  have hdout : writesDout i = false → t.dout = s.dout := fun hi => exec_keeps State.dout h (execEffect_dout hi s)
  refine ⟨?operands, ?nop, ?dout, ?absorbLast, ?verified, ?sqzcnt, exec_keeps State.irqen h (by simp),
    exec_keeps State.variant h (by simp), exec_keeps State.ovr h (by simp), exec_keeps State.rst h (by simp),
    exec_keeps State.host h (by simp), exec_keeps State.bound h (by simp), exec_keeps State.turns h (by simp),
    exec_keeps State.draws h (by simp)⟩
  case operands =>
    exact fun hi => ⟨exec_keeps State.key h (execEffect_key hi s), exec_keeps State.din h (execEffect_din hi s)⟩
  case nop =>
    rintro rfl
    exact exec_keeps State.S h rfl
  case dout =>
    intro hi hlen
    apply hdout
    cases i <;> simp [Instr.usesLen] at hi hlen <;> rfl
  case absorbLast => rintro ⟨len, rfl | rfl⟩ <;> exact hdout rfl
  case verified =>
    intro hi
    refine exec_keeps State.verified h (execEffect_verified ?_ s)
    cases i <;> simp at hi <;> rfl
  case sqzcnt =>
    intro hlast hi
    refine exec_keeps State.sqzcnt h (execEffect_sqzcnt ?_ s)
    cases i <;> simp at hi hlast <;> rfl

end Sys2Proof.Proofs.Frame
end

section
/-! PROOFS. The invariant of every reached state: it holds at reset, and every step keeps it. -/

namespace Sys2Proof.Proofs.Invariants

open Sys2Proof.Machine Sys2Proof.Safety Sys2Proof.Proofs.Window Sys2Proof.Proofs.Frame

/-! The operation in progress: which variant and which SQZCNT a phase goes with. -/

/-- The part of the invariant about the operation in progress, phase by phase (10_state.md R42, R43). -/
def PhaseFits (V : Variant) (phase : Phase) (count : BitVec 4) : Prop :=
  match phase with
  | .idle => count = 0
  | .hEmpty | .hAbsorb => V.isEsch = true ∧ count = 0
  | .hSqueeze => V.isEsch = true ∧ count.toNat < V.digestBytes / 16
  | .hDone => V.isEsch = true ∧ count.toNat = V.digestBytes / 16
  | .aReady | .aAd | .aAdDone | .aEnc | .aDec | .aEncDone | .aDecDone | .aDone => V.isSchwaemm = true ∧ count = 0

/-- The invariant, with its part about the operation in progress as one term. -/
theorem invariant_iff {s : State} :
    Invariant s ↔ s.pending.isSome = s.busy ∧ (s.busy = true → s.done = false) ∧ (s.rst = true → s.busy = false) ∧
      (s.err = true ↔ s.errcode ≠ .noError) ∧ PhaseFits s.variant s.phase s.sqzcnt := by
  constructor
  · intro h
    refine ⟨h.pending_busy, h.busy_not_done, h.rst_not_busy, h.err_code, ?_⟩
    have hhash := h.hash_variant
    have haead := h.aead_variant
    have hsqueezing := h.squeezing
    have hsqueezed := h.squeezed
    have hnone := h.not_squeezing
    cases hp : s.phase <;> simp_all [PhaseFits, hashPhases, aeadPhases]
  · rintro ⟨hpending, hdone, hrst, herr, hfits⟩
    refine ⟨hpending, hdone, hrst, herr, ?_, ?_, ?_, ?_, ?_⟩ <;>
      cases hp : s.phase <;> simp_all [PhaseFits, hashPhases, aeadPhases]

/-- Under a Schwaemm variant nothing is ever squeezed. -/
theorem count_eq_zero_of_isSchwaemm {V : Variant} {phase : Phase} {count : BitVec 4} (hV : V.isSchwaemm = true)
    (h : PhaseFits V phase count) : count = 0 := by
  have hesch : V.isEsch = false := by cases V <;> simp [Variant.isSchwaemm] at hV <;> rfl
  cases phase <;> simp_all [PhaseFits]

/-- Under a Schwaemm variant every AEAD phase fits, from whatever phase it is reached. -/
theorem phaseFits_aead {V : Variant} {phase phase' : Phase} {count : BitVec 4} (hp : phase' ∈ aeadPhases)
    (hV : V.isSchwaemm = true) (h : PhaseFits V phase count) : PhaseFits V phase' count := by
  have hcount := count_eq_zero_of_isSchwaemm hV h
  cases phase' <;> simp [aeadPhases] at hp <;> exact ⟨hV, hcount⟩

theorem digest_pos {V : Variant} (hV : V.isEsch = true) : 0 < V.digestBytes / 16 := by
  cases V <;> simp [Variant.isEsch] at hV <;> decide

/-- One squeeze more (41_hash.md R167): the count goes up by one, and the phase says whether the digest is out. -/
theorem phaseFits_squeeze {V : Variant} {count : BitVec 4} (h : PhaseFits V .hSqueeze count) :
    PhaseFits V (if (count + 1).toNat = V.digestBytes / 16 then .hDone else .hSqueeze) (count + 1) := by
  obtain ⟨hV, hlt⟩ := h
  have hsmall : V.digestBytes / 16 ≤ 3 := by cases V <;> decide
  have hsucc : (count + 1).toNat = count.toNat + 1 := BitVec.toNat_add_of_lt (by simp; omega)
  split
  · next hlast => exact ⟨hV, hlast⟩
  · next hlast => exact ⟨hV, by omega⟩

/-- Execute of an admitted command leaves a phase that fits the variant and the count. -/
theorem phaseFits_execEffect {i : Instr} {s : State} (hcheck : execCheck i s = .noError)
    (h : PhaseFits s.variant s.phase s.sqzcnt) :
    PhaseFits s.variant (execEffect i s).phase (execEffect i s).sqzcnt := by
  rw [execEffect_phase hcheck]
  cases i with
  | nop | perm nb steps => exact h
  | clear => exact rfl
  | hashInit => exact ⟨(checkAll_eq_noError.1 hcheck).1, rfl⟩
  | hashAbsorb =>
    rw [execEffect_sqzcnt rfl]
    obtain ⟨-, hphase, -⟩ := checkAll_eq_noError.1 hcheck
    obtain hp | hp : s.phase = .hEmpty ∨ s.phase = .hAbsorb := by simpa using hphase
    all_goals rw [hp] at h; exact h
  | hashLast len =>
    have hV := (checkAll_eq_noError.1 hcheck).1
    exact ⟨hV, digest_pos hV⟩
  | hashSqueeze =>
    have hp : s.phase = .hSqueeze := by simpa using (checkAll_eq_noError.1 hcheck).2.1
    simpa [nextPhase, execEffect, squeezeEffect] using phaseFits_squeeze (hp ▸ h)
  | aeadInit | aeadAd | aeadAdLast _ | aeadEnc | aeadEncLast _ | aeadDec | aeadDecLast _ | aeadTag | aeadVerify =>
    rw [execEffect_sqzcnt rfl]
    exact phaseFits_aead (by simp [nextPhase, aeadPhases]) (checkAll_eq_noError.1 hcheck).1 h

/-! Every move keeps the invariant. -/

/-- A command keeps the invariant, performed or refused. -/
theorem invariant_exec {i : Instr} {s t : State} (hinv : Invariant s) (h : exec i s = .next t) : Invariant t := by
  obtain ⟨-, -, -, herr, hfits⟩ := invariant_iff.1 hinv
  obtain ⟨hcheck, hex⟩ | ⟨hcheck, hex⟩ := exec_cases i s <;> rw [hex] at h <;> cases h
  · exact invariant_iff.2 ⟨rfl, by simp, by simp, by simpa using herr, by simpa using phaseFits_execEffect hcheck hfits⟩
  · exact invariant_iff.2 ⟨rfl, by simp, by simp, by simpa using hcheck, hfits⟩

theorem invariant_engineTurn {s t : State} (hinv : Invariant s) (h : engineTurn s = .next t) : Invariant t := by
  obtain ⟨hex, -⟩ | ⟨-, w, e, -, -, hex⟩ | ⟨-, w, i, -, -, hex⟩ := engineTurn_cases s <;> rw [hex] at h
  · cases h
    exact hinv
  · cases h
    obtain ⟨-, -, -, -, hfits⟩ := invariant_iff.1 hinv
    exact invariant_iff.2 ⟨rfl, by simp, by simp, by simp, hfits⟩
  · exact invariant_exec hinv h

/-- The invariant does not speak of S, KEY, DIN, IRQEN and OVR, nor of the host and the coming turns. -/
theorem invariant_of_eq {s t : State} (hinv : Invariant s)
    (h : t =
      { s with
        S := t.S, key := t.key, din := t.din, irqen := t.irqen, ovr := t.ovr
        host := t.host, bound := t.bound, turns := t.turns, draws := t.draws }) : Invariant t := by
  have hparts := invariant_iff.1 hinv
  rw [h]
  exact invariant_iff.2 hparts

theorem invariant_writeStatus {s : State} (hinv : Invariant s) (v : Word) : Invariant (writeStatus v s) := by
  obtain ⟨hpending, hdone, hrst, herr, hfits⟩ := invariant_iff.1 hinv
  refine invariant_iff.2 ⟨hpending, fun hb => ?_, hrst, ?_, hfits⟩
  · rw [writeStatus_done, hdone hb, Bool.false_and]
  · rw [writeStatus_err, writeStatus_errcode]
    cases v.getLsbD 2 <;> simp [herr]

theorem invariant_writeConfig {s : State} (hinv : Invariant s) (v : Word) : Invariant (writeConfig v s) := by
  obtain ⟨hpending, hdone, hrst, herr, hfits⟩ := invariant_iff.1 hinv
  unfold writeConfig
  split
  · exact invariant_iff.2 ⟨hpending, hdone, hrst, herr, rfl⟩
  · exact invariant_iff.2 ⟨hpending, hdone, hrst, by simp, hfits⟩

theorem invariant_accept {s : State} (hinv : Invariant s) (hrst : s.rst = false) (w : Word) : Invariant (accept w s) := by
  obtain ⟨-, -, -, herr, hfits⟩ := invariant_iff.1 hinv
  exact invariant_iff.2 ⟨rfl, fun _ => rfl, by simp [hrst], herr, hfits⟩

theorem invariant_writeEffect {r : Reg} {v : Word} {s t : State} (hinv : Invariant s) (h : WriteEffect r v s t) :
    Invariant t := by
  cases h with
  | ignored => exact hinv
  | dropped | ctrl | file K D S => exact invariant_of_eq hinv rfl
  | status => exact invariant_writeStatus hinv v
  | config => exact invariant_writeConfig hinv v
  | accepted hrst => exact invariant_accept hinv hrst v

theorem invariant_hostTurn {s t : State} (hinv : Invariant s) (h : hostTurn s = .next t) : Invariant t := by
  obtain ⟨off, v, rest, -, rfl⟩ | ⟨H, B, d, rfl⟩ := hostTurn_cases h
  · exact invariant_writeEffect (invariant_of_eq hinv rfl) (writeReg_effect _ v _)
  · exact invariant_of_eq hinv rfl

/-- Settles O57. -/
theorem resetInvariant : Obligations.ResetInvariant :=
  invariant_iff.2 ⟨rfl, by decide, by decide, by decide, rfl⟩

theorem invariant_driveRst {s : State} (hinv : Invariant s) (level : Bool) : Invariant (driveRst level s) := by
  obtain ⟨-, -, -, herr, hfits⟩ := invariant_iff.1 hinv
  unfold driveRst
  split
  · exact invariant_iff.2 ⟨rfl, by simp, fun _ => rfl, herr, hfits⟩
  · split
    · exact invariant_of_eq resetInvariant rfl
    · exact hinv

/-- Settles O58: whoever moves, the move keeps the invariant. -/
theorem stepKeepsInvariant : Obligations.StepKeepsInvariant := by
  intro s t hinv h
  have hturns (rest : List Turn) : Invariant { s with turns := rest } := invariant_of_eq hinv rfl
  obtain ⟨-, -, hs⟩ | ⟨-, -, hs⟩ | ⟨rest, -, hs⟩ | ⟨rest, -, hs⟩ | ⟨level, rest, -, hs⟩ := step_cases s <;> rw [hs] at h
  · exact invariant_engineTurn hinv h
  · exact invariant_hostTurn hinv h
  · exact invariant_hostTurn (hturns rest) h
  · exact invariant_engineTurn (hturns rest) h
  · cases h
    exact invariant_driveRst (hturns rest) level

end Sys2Proof.Proofs.Invariants
end

section
/-! PROOFS. The operands a command takes (10_state.md R33, R34, 93_implementation_defined.md U17): DIN and KEY reach its
result by those bytes and words only. -/

namespace Sys2Proof.Proofs.OperandUse

open Sys2Proof.Machine Sys2Proof.Safety Sys2Proof.Proofs.Bytes Sys2Proof.Proofs.Aead

/-! What the operations read of DIN and KEY. -/

/-- Lists of one length that agree at the first `n` places have the same first `n` elements. -/
theorem take_congr {α : Type} {n : Nat} {d : α} {l l' : List α} (hlen : l.length = l'.length)
    (h : ∀ k < n, l.getD k d = l'.getD k d) : l.take n = l'.take n := by
  apply List.ext_getElem (by simp [hlen])
  intro k hk hk'
  rw [List.length_take, Nat.lt_min] at hk hk'
  rw [List.getElem_take, List.getElem_take, ← List.getD_eq_getElem l d hk.2, ← List.getD_eq_getElem l' d hk'.2]
  exact h k hk.1

theorem blockBytes_congr {n : Nat} {D D' : Vector Word 8} (h : ∀ k < n, fileByte D k = fileByte D' k) :
    blockBytes n D = blockBytes n D' :=
  take_congr (d := 0) (by simp [length_bytesOf]) (by simpa only [bytesOf_toList_getD] using h)

theorem blockWords_congr {n : Nat} {D D' : Vector Word 8} (h : ∀ k < n, getW D k = getW D' k) :
    blockWords n D = blockWords n D' :=
  take_congr (by simp) h

theorem dataWords_congr {V : Variant} {D D' : Vector Word 8} (h : ∀ k < V.R, getW D k = getW D' k) (S : Vector Word 16) :
    dataWords V S D = dataWords V S D' :=
  List.map_congr_left fun k hk => by rw [h k (List.mem_range.1 hk)]

theorem loadNonceKey_congr {V : Variant} {D D' K K' : Vector Word 8} (hD : ∀ k < V.R, getW D k = getW D' k)
    (hK : ∀ k < V.CW, getW K k = getW K' k) (S : Vector Word 16) :
    loadNonceKey V D K S = loadNonceKey V D' K' S := by
  apply file_ext
  intro k hk
  rw [getW_loadNonceKey _ _ _ _ _ hk, getW_loadNonceKey _ _ _ _ _ hk]
  split
  · next hrate => exact hD k hrate
  · split
    · exact hK _ (by omega)
    · rfl

theorem xorKey_congr {V : Variant} {K K' : Vector Word 8} (h : ∀ k < V.CW, getW K k = getW K' k) (S : Vector Word 16) :
    xorKey V K S = xorKey V K' S := by
  apply file_ext
  intro k hk
  rw [xorKey, xorKey, getW_fill _ _ _ _ _ hk, getW_fill _ _ _ _ _ hk]
  split
  · rw [h _ (by omega)]
  · rfl

theorem tagDiff_congr {V : Variant} {D D' : Vector Word 8} (h : ∀ k < V.CW, getW D k = getW D' k) (S : Vector Word 16) :
    tagDiff V S D = tagDiff V S D' :=
  List.foldl_ext _ _ _ fun diff k hk => by rw [h k (List.mem_range.1 hk)]

/-! A command with other operands. -/

/-- `s` with other words in DIN and KEY. -/
def withOperands (D K : Vector Word 8) (s : State) : State := { s with din := D, key := K }

/-- No check reads DIN or KEY (60_exceptions.md R247). -/
theorem execCheck_withOperands (i : Instr) (D K : Vector Word 8) (s : State) :
    execCheck i (withOperands D K s) = execCheck i s := by
  cases i <;> rfl

/-- If Execute gives the same with other operands, so does the command, performed or refused. -/
theorem exec_withOperands {i : Instr} {D K : Vector Word 8} {s t : State}
    (heffect : execEffect i (withOperands D K s) = withOperands D K (execEffect i s)) (h : exec i s = .next t) :
    exec i (withOperands D K s) = .next (withOperands D K t) := by
  rw [exec_eq] at h
  rw [exec_eq, execCheck_withOperands]
  obtain ⟨hcheck, rfl⟩ | ⟨hcheck, rfl⟩ := performCmd_next h
  · rw [hcheck, performCmd_admitted, heffect]
    rfl
  · rw [performCmd_refused hcheck]
    rfl

/-- Settles O40: the four commands read DIN through their block of LEN bytes. -/
theorem dinBeyondLenIgnored : Obligations.DinBeyondLenIgnored := by
  intro i len s t D K hi hD h
  refine exec_withOperands ?_ h
  have hblock := blockBytes_congr hD
  simp only [List.mem_cons, List.not_mem_nil, or_false] at hi
  obtain rfl | rfl | rfl | rfl := hi <;>
    simp only [execEffect, aeadEncLastEffect, aeadDecLastEffect, withOperands, hblock]

/-- Execute of a command without LEN takes the first words of DIN and KEY only. -/
theorem execEffect_withOperands {i : Instr} {D K : Vector Word 8} {s : State} (hclear : i ≠ .clear)
    (hlen : i.usesLen = false) (hD : ∀ k < dinWords s.variant i, getW D k = getW s.din k)
    (hK : ∀ k < keyWords s.variant i, getW K k = getW s.key k) :
    execEffect i (withOperands D K s) = withOperands D K (execEffect i s) := by
  cases i with
  | nop | perm _ _ | hashInit | hashSqueeze => rfl
  | clear => exact absurd rfl hclear
  | hashLast _ | aeadAdLast _ | aeadEncLast _ | aeadDecLast _ => cases hlen
  | hashAbsorb => simp only [execEffect, withOperands, blockWords_congr (n := 4) hD]
  | aeadAd => simp only [execEffect, withOperands, blockWords_congr (n := s.variant.R) hD]
  | aeadInit => simp only [execEffect, aeadInitEffect, withOperands, loadNonceKey_congr hD hK]
  | aeadEnc =>
    simp only [execEffect, aeadEncEffect, withOperands, blockWords_congr (n := s.variant.R) hD, dataWords_congr hD]
  | aeadDec => simp only [execEffect, aeadDecEffect, withOperands, dataWords_congr hD]
  | aeadTag => simp only [execEffect, aeadTagEffect, withOperands, xorKey_congr hK]
  | aeadVerify => simp only [execEffect, aeadVerifyEffect, withOperands, xorKey_congr hK, tagDiff_congr hD]

/-- Settles O41. -/
theorem unusedOperandWordsIgnored : Obligations.UnusedOperandWordsIgnored := by
  refine ⟨fun i s t D K hclear hlen hD hK h => exec_withOperands (execEffect_withOperands hclear hlen hD hK) h, ?_⟩
  intro s D K
  have heffect : clearEffect (withOperands D K s) = clearEffect s := rfl
  change execClear (withOperands D K s) = execClear s
  rw [execClear, execClear, performCmd_admitted, performCmd_admitted, heffect]

end Sys2Proof.Proofs.OperandUse
end

section
/-! PROOFS. Check(w) on the raw word (60_exceptions.md R242) and what the engine does: decoding, then the command's own
check. -/

namespace Sys2Proof.Proofs.Checks

open Sys2Proof.Machine Sys2Proof.Safety

/-! The decoder. -/

/-- The OP value of each command (30_encoding.md R106). -/
def opcode : Instr → Nat
  | .nop => 0x00
  | .clear => 0x01
  | .perm _ _ => 0x02
  | .hashInit => 0x08
  | .hashAbsorb => 0x09
  | .hashLast _ => 0x0A
  | .hashSqueeze => 0x0B
  | .aeadInit => 0x10
  | .aeadAd => 0x11
  | .aeadAdLast _ => 0x12
  | .aeadEnc => 0x13
  | .aeadEncLast _ => 0x14
  | .aeadDec => 0x15
  | .aeadDecLast _ => 0x16
  | .aeadTag => 0x17
  | .aeadVerify => 0x18

/-- The command an OP value names has that OP value, and the operands it uses are the fields of the word. -/
theorem instrOf_eq_some {op : BitVec 5} {len : BitVec 6} {nb : BitVec 2} {steps : BitVec 5} {i : Instr}
    (h : instrOf op len nb steps = some i) :
    op.toNat = opcode i ∧ (∀ n, i ∈ [.hashLast n, .aeadAdLast n, .aeadEncLast n, .aeadDecLast n] → n = len) ∧
      ∀ b c, i = .perm b c → b = nb := by
  unfold instrOf at h
  split at h <;> cases h
  all_goals refine ⟨‹_›, ?_, ?_⟩ <;> simp +contextual

theorem instrOf_eq_none {op : BitVec 5} {len : BitVec 6} {nb : BitVec 2} {steps : BitVec 5}
    (h : instrOf op len nb steps = none) : op.toNat ∉ definedOps := by
  unfold instrOf at h
  split at h <;> cases h
  simp_all [definedOps]

/-- The seven bits of NB and STEPS are 0 exactly when both fields are (30_encoding.md R100). -/
theorem nbSteps_eq_zero {w : Word} : w.extractLsb' 14 7 = 0 ↔ nbField w = 0 ∧ stepsField w = 0 := by
  simp only [nbField, stepsField, ← BitVec.toNat_inj, BitVec.extractLsb'_toNat, Nat.shiftRight_eq_div_pow]
  simp
  omega

theorem opcode_mem_definedOps (i : Instr) : opcode i ∈ definedOps := by
  cases i <;> simp [opcode, definedOps]

theorem opcode_mem_lastOps (i : Instr) : opcode i ∈ lastOps ↔ i.usesLen = true := by
  cases i <;> simp [opcode, lastOps, Instr.usesLen]

theorem opcode_eq_perm (i : Instr) : opcode i = 0x02 ↔ i.usesNbSteps = true := by
  cases i <;> simp [opcode, Instr.usesNbSteps]

/-! The check of a legal word. -/

/-- A chain of conditions in the order of R242 is `checkAll` of their negations. -/
theorem chain_eq_checkAll (hash aead phased length : Prop) [Decidable hash] [Decidable aead] [Decidable phased]
    [Decidable length] :
    (if hash then ErrCode.variant else if aead then .variant else if phased then .sequence else if length then .len
      else .noError) = checkAll (decide (¬hash ∧ ¬aead)) (decide ¬phased) (decide ¬length) := by
  by_cases hhash : hash
  · simp [checkAll, hhash]
  · simp [checkAll, hhash]

/-- The checks R242 makes of a legal word: VARIANT, then SEQUENCE, then LEN. -/
def legalCheck (i : Instr) (n : Nat) (V : Variant) (phase : Phase) : ErrCode :=
  checkAll
    (decide (¬(opcode i ∈ hashOps ∧ V ∉ [Variant.esch256, .esch384]) ∧
      ¬(opcode i ∈ aeadOps ∧ V ∉ [Variant.schwaemm128_128, .schwaemm192_192, .schwaemm256_128])))
    (decide ¬(opcode i ∈ phasedOps ∧ phase ∉ allowedPhases (opcode i)))
    (decide ¬(i.usesLen = true ∧ lenOk (opcode i) n V phase = false))

/-- Check(w) of a word with a defined OP makes the decoder's tests in the decoder's order, then the checks of a legal
word. -/
theorem checkWord_of_instrOf {w : Word} {i : Instr}
    (h : instrOf (opField w) (lenField w) (nbField w) (stepsField w) = some i) (V : Variant) (phase : Phase) :
    checkWord w V phase =
      if lowReserved w ≠ 0 ∨ highReserved w ≠ 0 then .illegal
      else if i.usesLen = false ∧ lenField w ≠ 0 then .illegal
      else if i.usesNbSteps = false ∧ (nbField w ≠ 0 ∨ stepsField w ≠ 0) then .illegal
      else if i.wf = false then .illegal
      else legalCheck i (lenField w).toNat V phase := by
  obtain ⟨hop, -, hnb⟩ := instrOf_eq_some h
  replace hop : (w.extractLsb' 0 5).toNat = opcode i := hop
  have hlen : (¬i.usesLen = true ∧ w.extractLsb' 8 6 ≠ 0) ↔ (i.usesLen = false ∧ lenField w ≠ 0) := by simp [lenField]
  have hnbs : (¬i.usesNbSteps = true ∧ w.extractLsb' 14 7 ≠ 0) ↔
      (i.usesNbSteps = false ∧ (nbField w ≠ 0 ∨ stepsField w ≠ 0)) := by
    rw [Bool.not_eq_true, ne_eq, nbSteps_eq_zero, not_and_or]
  have hwf : (i.usesNbSteps = true ∧ w.extractLsb' 14 2 = 3) ↔ i.wf = false := by
    cases i with
    | perm nb steps => simp [Instr.usesNbSteps, Instr.wf, hnb nb steps rfl, nbField]
    | _ => simp [Instr.usesNbSteps, Instr.wf]
  unfold checkWord legalCheck
  rw [hop, if_neg (not_not.2 (opcode_mem_definedOps i))]
  simp only [opcode_mem_lastOps, ne_eq, opcode_eq_perm, ← chain_eq_checkAll]
  exact if_congr Iff.rfl rfl (if_congr hlen rfl (if_congr hnbs rfl (if_congr hwf rfl rfl)))

theorem isEsch_eq (V : Variant) : V.isEsch = decide (V ∈ [Variant.esch256, .esch384]) := by
  cases V <;> rfl

theorem isSchwaemm_eq (V : Variant) :
    V.isSchwaemm = decide (V ∈ [Variant.schwaemm128_128, .schwaemm192_192, .schwaemm256_128]) := by
  cases V <;> rfl

/-- LenOK of HASH_LAST (60_exceptions.md R245). -/
theorem lenOk_hashLast (len : BitVec 6) (V : Variant) (phase : Phase) :
    lenOk 0x0A len.toNat V phase = hashLenOk phase len := by
  simp [lenOk, hashLenOk, beq_eq_decide]

/-- LenOK of the AEAD last-block commands (60_exceptions.md R245). -/
theorem lenOk_aead {op : Nat} (hop : op ≠ 0x0A) (len : BitVec 6) (V : Variant) (phase : Phase) :
    lenOk op len.toNat V phase = aeadLenOk V len := by
  simp [lenOk, aeadLenOk, hop]

/-- The branch-count codes other than 3 have a branch count (30_encoding.md R103). -/
theorem branchCount_isSome {nb : BitVec 2} (h : nb ≠ 3) : (branchCount nb).isSome = true := by
  revert nb
  decide

/-- The check of a legal word is the one its command makes. -/
theorem legalCheck_eq_execCheck {i : Instr} {n : Nat} {s : State} (hwf : i.wf = true)
    (hn : ∀ len, i ∈ [.hashLast len, .aeadAdLast len, .aeadEncLast len, .aeadDecLast len] → n = len.toNat) :
    legalCheck i n s.variant s.phase = execCheck i s := by
  cases i with
  | nop | clear => rfl
  | perm nb steps =>
    have hnb : nb ≠ 3 := by simpa [Instr.wf] using hwf
    rw [execCheck, if_pos (branchCount_isSome hnb)]
    rfl
  | hashInit | hashAbsorb | hashSqueeze =>
    simp [legalCheck, execCheck, isEsch_eq, opcode, hashOps, aeadOps, phasedOps, allowedPhases, Instr.usesLen]
  | hashLast len =>
    obtain rfl := hn len (by simp)
    simp [legalCheck, execCheck, isEsch_eq, opcode, hashOps, aeadOps, phasedOps, allowedPhases, Instr.usesLen,
      lenOk_hashLast]
  | aeadInit | aeadAd | aeadEnc | aeadDec | aeadTag | aeadVerify =>
    simp [legalCheck, execCheck, isSchwaemm_eq, opcode, hashOps, aeadOps, phasedOps, allowedPhases, Instr.usesLen]
  | aeadAdLast len | aeadEncLast len | aeadDecLast len =>
    obtain rfl := hn len (by simp)
    simp [legalCheck, execCheck, isSchwaemm_eq, opcode, hashOps, aeadOps, phasedOps, allowedPhases, Instr.usesLen,
      lenOk_aead]

/-- Check(w) of an illegal word is ILLEGAL. -/
theorem checkWord_of_decode_error {w : Word} {e : DecodeError} (h : decode w = .error e) (V : Variant) (phase : Phase) :
    checkWord w V phase = .illegal := by
  unfold decode at h
  split at h
  · next hnone => exact if_pos (instrOf_eq_none hnone)
  · next i hi =>
    rw [checkWord_of_instrOf hi]
    split_ifs at h ⊢ <;> rfl

/-- Check(w) of a legal word is the check its command makes. -/
theorem checkWord_of_decode_ok {w : Word} {i : Instr} (h : decode w = .ok i) (s : State) :
    checkWord w s.variant s.phase = execCheck i s := by
  unfold decode at h
  split at h
  · cases h
  · next j hj =>
    rw [checkWord_of_instrOf hj]
    split_ifs at h ⊢ with hreserved hlen hnb hwf
    cases h
    obtain ⟨-, hfield, -⟩ := instrOf_eq_some hj
    exact legalCheck_eq_execCheck (by simpa using hwf) fun len hi => by rw [hfield len hi]

end Sys2Proof.Proofs.Checks
end

section
/-! PROOFS. The registers of the window (10_state.md R36 to R50): CONFIG, STATUS, ID, CTRL and CMD, the output irq, and
the values at reset. -/

namespace Sys2Proof.Proofs.Registers

open Sys2Proof.Machine Sys2Proof.Safety Sys2Proof.Proofs.Window Sys2Proof.Proofs.Frame

/-! CONFIG. -/

/-- A value up to 4 is the code of a variant, which CONFIG takes and then reads as (10_state.md R46). -/
theorem writeConfig_accepted {v : Word} (hv : v.toNat ≤ 4) (s : State) :
    ∃ V : Variant,
      [Variant.esch256, .esch384, .schwaemm128_128, .schwaemm192_192, .schwaemm256_128][v.toNat]? = some V ∧
      writeConfig v s = { s with variant := V, phase := .idle, sqzcnt := 0 } ∧
      (0 : BitVec 28) ++ variantCode V = v := by
  have hcode : v = 0 ∨ v = 1 ∨ v = 2 ∨ v = 3 ∨ v = 4 := by
    simp only [← BitVec.toNat_inj]
    simp
    omega
  obtain rfl | rfl | rfl | rfl | rfl := hcode
  · exact ⟨.esch256, rfl, rfl, rfl⟩
  · exact ⟨.esch384, rfl, rfl, rfl⟩
  · exact ⟨.schwaemm128_128, rfl, rfl, rfl⟩
  · exact ⟨.schwaemm192_192, rfl, rfl, rfl⟩
  · exact ⟨.schwaemm256_128, rfl, rfl, rfl⟩

/-- Settles O44. -/
theorem configWrite : Obligations.ConfigWrite := by
  refine ⟨fun v s hrst => ⟨fun hbusy hv => ?accepted, fun hbusy hv => ?refused,
      fun hbusy => hostWrite_dropped (by decide) (by decide) hrst hbusy rfl⟩,
    fun k s hrst => hostRead_value (r := .config) rfl (by decide) (by decide) nofun nofun hrst k, fun s => ?high, rfl⟩
  case accepted =>
    obtain ⟨V, hV, hwrite, hread⟩ := writeConfig_accepted hv s
    exact ⟨V, hV, hwrite ▸ hostWrite_config hrst hbusy, hread⟩
  case refused => rw [hostWrite_config hrst hbusy, writeConfig_refused hv]
  case high =>
    unfold configWord
    cases s.variant <;> rfl

/-! STATUS. -/

/-- The one-bit fields of STATUS (R38). -/
theorem statusWord_bits (s : State) :
    (statusWord s).getLsbD 0 = s.busy ∧ (statusWord s).getLsbD 1 = s.done ∧ (statusWord s).getLsbD 2 = s.err ∧
    (statusWord s).getLsbD 3 = s.verified ∧ (statusWord s).getLsbD 7 = s.ovr := by
  simp only [statusWord, BitVec.getLsbD_append]
  simp

/-- The wider fields of STATUS (R38), bit by bit. -/
theorem statusWord_fields (s : State) :
    (statusWord s).extractLsb' 4 3 = s.errcode.code ∧ (statusWord s).extractLsb' 8 4 = s.phase.code ∧
    (statusWord s).extractLsb' 12 4 = s.sqzcnt ∧ (statusWord s).extractLsb' 16 16 = 0 := by
  refine ⟨?_, ?_, ?_, ?_⟩
  all_goals
    apply BitVec.eq_of_getLsbD_eq
    intro j hj
    interval_cases j <;> simp only [statusWord, BitVec.getLsbD_append, BitVec.getLsbD_extractLsb'] <;> simp

/-- Settles O45. -/
theorem statusRegister : Obligations.StatusRegister := by
  refine ⟨rfl, rfl, fun k s hrst => hostRead_value (r := .status) rfl (by decide) (by decide) nofun nofun hrst k,
    fun s => ?layout, rfl, fun v s hrst => ?write⟩
  case layout =>
    obtain ⟨hbusy, hdone, herr, hverified, hovr⟩ := statusWord_bits s
    obtain ⟨hcode, hphase, hsqzcnt, hreserved⟩ := statusWord_fields s
    exact ⟨hbusy, hdone, herr, hverified, hcode, hovr, hphase, hsqzcnt, hreserved⟩
  case write =>
    have hclear (held bit : Bool) : (held && !bit) = if bit then false else held := by cases bit <;> simp
    rw [hostWrite_status hrst, writeStatus, hclear, hclear, hclear]

/-! ID, CTRL and CMD. -/

/-- Settles O47. -/
theorem idCtrlCmdRegisters : Obligations.IdCtrlCmdRegisters := by
  refine ⟨rfl, fun v k s hrst => ⟨?_, ?_, hostWrite_ctrl hrst, ?ctrl, ?_, fun hbusy => hostWrite_cmd hrst hbusy,
    fun hbusy => hostWrite_dropped (by decide) (by decide) hrst hbusy rfl⟩⟩
  · exact hostRead_value (r := .id) rfl (by decide) (by decide) nofun nofun hrst k
  · exact hostWrite_effect (r := .id) rfl (by decide) (by decide) (by simp [writeReg])
  case ctrl =>
    have hctrl : ctrlWord s = if s.irqen then 1 else 0 := by
      unfold ctrlWord
      cases s.irqen <;> rfl
    exact hctrl ▸ hostRead_value (r := .ctrl) rfl (by decide) (by decide) nofun nofun hrst k
  · exact hostRead_value (r := .cmd) rfl (by decide) (by decide) nofun nofun hrst k

/-! The output irq. -/

/-- Settles O51. -/
theorem interruptLine : Obligations.InterruptLine := by
  refine ⟨fun _ => rfl, rfl, fun i s t h => ?completion, fun v s t hrst hv h => ?status, fun w s t hrst hbusy h => ?cmd,
    fun v s t hrst hv h => ?ctrl⟩
  case completion =>
    have hirqen : t.irqen = s.irqen := exec_keeps State.irqen h (by simp)
    have hdone : t.done = true := by
      obtain ⟨-, hex⟩ | ⟨-, hex⟩ := exec_cases i s <;> rw [hex] at h <;> cases h <;> rfl
    rw [irq, hdone, hirqen, Bool.true_and]
  case status =>
    rw [hostWrite_status hrst] at h
    cases h
    simp [irq, hv]
  case cmd =>
    rw [hostWrite_cmd hrst hbusy] at h
    cases h
    rfl
  case ctrl =>
    rw [hostWrite_ctrl hrst] at h
    cases h
    exact ⟨by simp only [irq, hv, Bool.and_false], rfl⟩

/-! Reset. -/

/-- Settles O56. -/
theorem resetValues : Obligations.ResetValues :=
  ⟨getW_zeros, fun k => ⟨getW_zeros k, getW_zeros k, getW_zeros k⟩, rfl, rfl, rfl, rfl, rfl⟩

end Sys2Proof.Proofs.Registers
end

section
/-! PROOFS. When ERR and ERRCODE are set, kept and cleared (10_state.md R41, 70_reset_and_hazards.md R280). -/

namespace Sys2Proof.Proofs.ErrorStatus

open Sys2Proof.Machine Sys2Proof.Safety Sys2Proof.Proofs.Window Sys2Proof.Proofs.Frame Sys2Proof.Proofs.Checks

/-- ERR, where it was set, and a code, where there was one, are not cleared from `s` to `t`. -/
def ErrKept (s t : State) : Prop :=
  (s.err = true → t.err = true) ∧ (s.errcode ≠ .noError → t.errcode ≠ .noError)

theorem errKept_of_eq {s t : State} (herr : t.err = s.err) (hcode : t.errcode = s.errcode) : ErrKept s t :=
  ⟨fun h => herr.trans h, fun h => hcode ▸ h⟩

theorem errKept_of_set {s t : State} (herr : t.err = true) (hcode : t.errcode ≠ .noError) : ErrKept s t :=
  ⟨fun _ => herr, fun _ => hcode⟩

/-- A command sets ERR and its code where its check fails, and leaves both where it passes (10_state.md R41). -/
theorem exec_err {i : Instr} {s t : State} (h : exec i s = .next t) :
    (execCheck i s ≠ .noError → t.err = true ∧ t.errcode = execCheck i s) ∧
    (execCheck i s = .noError → t.err = s.err ∧ t.errcode = s.errcode) := by
  obtain ⟨hcheck, hex⟩ | ⟨hcheck, hex⟩ := exec_cases i s <;> rw [hex] at h <;> cases h
  · exact ⟨fun hne => absurd hcheck hne, fun _ => by simp⟩
  · exact ⟨fun _ => by simp, fun heq => absurd heq hcheck⟩

theorem engineTurn_errKept {s t : State} (h : engineTurn s = .next t) : ErrKept s t := by
  obtain ⟨hex, -⟩ | ⟨-, w, e, -, -, hex⟩ | ⟨-, w, i, -, -, hex⟩ := engineTurn_cases s <;> rw [hex] at h
  · cases h
    exact errKept_of_eq rfl rfl
  · cases h
    exact errKept_of_set rfl (by simp)
  · obtain ⟨hfail, hpass⟩ := exec_err h
    by_cases hcheck : execCheck i s = .noError
    · exact errKept_of_eq (hpass hcheck).1 (hpass hcheck).2
    · exact errKept_of_set (hfail hcheck).1 ((hfail hcheck).2 ▸ hcheck)

theorem writeConfig_errKept (v : Word) (s : State) : ErrKept s (writeConfig v s) := by
  unfold writeConfig
  split
  · exact errKept_of_eq rfl rfl
  · exact errKept_of_set rfl (by simp)

/-- Of all writes only one of STATUS with bit 2 clears ERR or ERRCODE. -/
theorem writeEffect_errKept {r : Reg} {v : Word} {s t : State} (h : WriteEffect r v s t) :
    ErrKept s t ∨ (r = .status ∧ v.getLsbD 2 = true) := by
  cases h with
  | ignored | dropped | ctrl | accepted | file K D S => exact .inl (errKept_of_eq rfl rfl)
  | config => exact .inl (writeConfig_errKept v s)
  | status hr =>
    cases hbit : v.getLsbD 2 with
    | true => exact .inr ⟨hr, rfl⟩
    | false =>
      refine .inl (errKept_of_eq ?_ ?_)
      · rw [writeStatus_err, hbit, Bool.not_false, Bool.and_true]
      · rw [writeStatus_errcode, hbit, if_neg Bool.false_ne_true]

theorem hostTurn_errKept {s t : State} (h : hostTurn s = .next t) :
    ErrKept s t ∨ ∃ v rest, s.host = .write 0x008 4 v :: rest ∧ v.getLsbD 2 = true := by
  obtain ⟨off, v, rest, hhost, rfl⟩ | ⟨H, B, d, rfl⟩ := hostTurn_cases h
  · obtain hkept | ⟨hreg, hbit⟩ := writeEffect_errKept (writeReg_effect (regAt off) v { s with host := rest })
    · exact .inl hkept
    · rw [eq_of_regAt_eq_status hreg] at hhost
      exact .inr ⟨v, rest, hhost, hbit⟩
  · exact .inl (errKept_of_eq rfl rfl)

/-- Of the moves of rst only its deassertion clears ERR and ERRCODE (log entry 5). -/
theorem driveRst_errKept (level : Bool) (s : State) :
    ErrKept s (driveRst level s) ∨ (level = false ∧ s.rst = true) := by
  cases level with
  | true => exact .inl (errKept_of_eq rfl rfl)
  | false =>
    cases hrst : s.rst with
    | true => exact .inr ⟨rfl, rfl⟩
    | false => exact .inl (by simpa [driveRst, hrst] using errKept_of_eq rfl rfl)

theorem step_errKept {s t : State} (h : step s = .next t) :
    ErrKept s t ∨ (∃ v rest, s.host = .write 0x008 4 v :: rest ∧ v.getLsbD 2 = true) ∨
      ∃ rest, s.turns = .rst false :: rest ∧ s.rst = true := by
  obtain ⟨-, -, hs⟩ | ⟨-, -, hs⟩ | ⟨rest, -, hs⟩ | ⟨rest, -, hs⟩ | ⟨level, rest, hturns, hs⟩ := step_cases s <;>
    rw [hs] at h
  · exact .inl (engineTurn_errKept h)
  · exact (hostTurn_errKept h).imp_right .inl
  · exact (hostTurn_errKept h).imp_right .inl
  · have hkept := engineTurn_errKept h
    exact .inl hkept
  · cases h
    obtain hkept | ⟨rfl, hrst⟩ := driveRst_errKept level { s with turns := rest }
    · exact .inl hkept
    · exact .inr (.inr ⟨rest, hturns, hrst⟩)

/-- The engine ends the word in flight with the code of Check(w), or leaves ERR and ERRCODE where there is none. -/
theorem engineTurn_err {s : State} {w : Word} (hbusy : s.busy = true) (hrst : s.rst = false)
    (hpending : s.pending = some w) :
    ∃ t, engineTurn s = .next t ∧
      (checkWord w s.variant s.phase ≠ .noError → t.err = true ∧ t.errcode = checkWord w s.variant s.phase) ∧
      (checkWord w s.variant s.phase = .noError → t.err = s.err ∧ t.errcode = s.errcode) := by
  have henabled : engineEnabled s = true := by simp [engineEnabled, hbusy, hrst]
  obtain ⟨-, hidle | hnone⟩ | ⟨-, w', e, hw, hd, hex⟩ | ⟨-, w', i, hw, hd, hex⟩ := engineTurn_cases s
  · rw [henabled] at hidle
    cases hidle
  · rw [hpending] at hnone
    cases hnone
  all_goals
    rw [hpending] at hw
    cases hw
  · rw [checkWord_of_decode_error hd]
    exact ⟨_, hex, fun _ => ⟨rfl, rfl⟩, nofun⟩
  · rw [checkWord_of_decode_ok hd, hex]
    obtain ⟨t, ht⟩ : ∃ t, exec i s = .next t := by
      obtain ⟨-, h⟩ | ⟨-, h⟩ := exec_cases i s <;> exact ⟨_, h⟩
    exact ⟨t, ht, exec_err ht⟩

/-- Settles O59. -/
theorem errRules : Obligations.ErrRules := by
  refine ⟨fun s w => engineTurn_err, fun v s hrst hbusy hv => ⟨_, hostWrite_config hrst hbusy, ?_⟩,
    fun v s hrst hbit => ⟨_, hostWrite_status hrst, ?_⟩, fun s t h hcleared => ?cleared⟩
  · rw [writeConfig_refused hv]
    exact ⟨rfl, rfl⟩
  · rw [writeStatus_err, writeStatus_errcode, hbit, if_pos rfl, Bool.not_true, Bool.and_false]
    exact ⟨rfl, rfl⟩
  case cleared =>
    obtain ⟨herr, hcode⟩ | hcause := step_errKept h
    · obtain ⟨hset, hclear⟩ | ⟨hset, hclear⟩ := hcleared
      · rw [herr hset] at hclear
        cases hclear
      · exact absurd hclear (hcode hset)
    · exact hcause

end Sys2Proof.Proofs.ErrorStatus
end

section
/-! PROOFS. The offsets of the window (20_memory.md R72, R73, R79): where each register stands, and which registers an
access at an offset can meet. -/

namespace Sys2Proof.Proofs.Window

open Sys2Proof.Machine Sys2Proof.Safety

/-! Offsets. -/

/-- The offsets at which a register is met (R72). -/
def StandsAt (r : Reg) (off : Nat) : Prop :=
  match r with
  | .id => off = 0x000
  | .ctrl => off = 0x004
  | .status => off = 0x008
  | .config => off = 0x00C
  | .cmd => off = 0x010
  | .key _ => 0x020 ≤ off ∧ off < 0x040
  | .din _ => 0x040 ≤ off ∧ off < 0x060
  | .dout _ => 0x060 ≤ off ∧ off < 0x080
  | .state _ => 0x080 ≤ off ∧ off < 0x0C0
  | .reserved => 0x0C0 ≤ off ∨ (off < 0x020 ∧ off ≠ 0x000 ∧ off ≠ 0x004 ∧ off ≠ 0x008 ∧ off ≠ 0x00C ∧ off ≠ 0x010)

theorem standsAt_regAt (off : Nat) : StandsAt (regAt off) off := by
  unfold regAt
  split
  · split
    case h_6 hid hctrl hstatus hconfig hcmd => exact .inr ⟨‹_›, hid, hctrl, hstatus, hconfig, hcmd⟩
    all_goals rfl
  · repeat' split
    all_goals simp only [StandsAt]; omega

/-- The offset of a register is where it is met. -/
theorem regAt_regOffset (r : Reg) : regAt (regOffset r) = r := by
  cases r with
  | key i | din i | dout i | state i =>
    revert i
    decide
  | _ => rfl

theorem regOffset_admitted (r : Reg) : regOffset r < 0x100 ∧ regOffset r % 4 = 0 := by
  cases r with
  | key i | din i | dout i | state i =>
    simp only [regOffset]
    omega
  | _ => decide

/-- The writes that are dropped while BUSY = 1 (R79). -/
theorem droppedWhileBusy_iff {r : Reg} {off : Nat} (h : StandsAt r off) :
    droppedWhileBusy r = true ↔
      off = 0x00C ∨ off = 0x010 ∨ (0x020 ≤ off ∧ off < 0x060) ∨ (0x080 ≤ off ∧ off < 0x0C0) := by
  cases r with
  | config | cmd | key _ | din _ | state _ => exact iff_of_true rfl (by simp only [StandsAt] at h; omega)
  | _ => exact iff_of_false Bool.false_ne_true (by simp only [StandsAt] at h; omega)

/-- The registers that ignore every write (R73; 10_state.md R35, R36). -/
def ignoresWrites : Reg → Bool
  | .id | .dout _ | .reserved => true
  | _ => false

theorem ignoresWrites_of_offset {r : Reg} {off : Nat} (h : StandsAt r off) (halign : off % 4 = 0)
    (hoff : off = 0x000 ∨ (0x014 ≤ off ∧ off < 0x020) ∨ (0x060 ≤ off ∧ off < 0x080) ∨ 0x0C0 ≤ off) :
    ignoresWrites r = true := by
  cases r with
  | id | dout _ | reserved => rfl
  | _ =>
    simp only [StandsAt] at h
    omega

theorem eq_reserved_of_offset {r : Reg} {off : Nat} (h : StandsAt r off) (halign : off % 4 = 0)
    (hoff : (0x014 ≤ off ∧ off < 0x020) ∨ 0x0C0 ≤ off) : r = .reserved := by
  cases r with
  | reserved => rfl
  | _ =>
    simp only [StandsAt] at h
    omega

/-- The registers that read as any value while BUSY = 1 (R79). -/
def freeWhileBusy : Reg → Bool
  | .dout _ | .state _ => true
  | _ => false

theorem freeWhileBusy_iff {r : Reg} {off : Nat} (h : StandsAt r off) :
    freeWhileBusy r = true ↔ 0x060 ≤ off ∧ off < 0x0C0 := by
  cases r with
  | dout _ | state _ => exact iff_of_true rfl (by simp only [StandsAt] at h; omega)
  | _ => exact iff_of_false Bool.false_ne_true (by simp only [StandsAt] at h; omega)

/-! Reads and writes. -/

/-- A read that is not one of "any value" returns the register's value and changes nothing (R75, R79). -/
theorem readReg_defined {r : Reg} {s : State} (hrst : s.rst = false) (hfree : s.busy = true → freeWhileBusy r = false) :
    readReg r s = (regValue r s, s) := by
  have hbusy (hr : freeWhileBusy r = true) : s.busy = false :=
    Bool.eq_false_iff.2 fun hb => Bool.false_ne_true ((hfree hb).symm.trans hr)
  cases r with
  | dout i | state i => simp [readReg, hrst, hbusy rfl]
  | _ => exact readReg_value hrst nofun nofun

/-- DOUT and STATE read as any value while BUSY = 1 (R79). -/
theorem readReg_free {r : Reg} {s : State} (hrst : s.rst = false) (hbusy : s.busy = true) (hr : freeWhileBusy r = true) :
    readReg r s = drawAny s := by
  cases r with
  | dout i | state i => simp [readReg, hrst, hbusy]
  | _ => cases hr

theorem hostRead_defined {off : Nat} {s : State} (hlt : off < 0x100) (halign : off % 4 = 0) (hrst : s.rst = false)
    (hfree : s.busy = true → freeWhileBusy (regAt off) = false) (k : Word → State → Out) :
    hostRead off 4 k s = k (regValue (regAt off) s) s := by
  rw [hostRead_admitted hlt halign, readReg_defined hrst hfree]

theorem hostRead_free {off : Nat} {s : State} (hlt : off < 0x100) (halign : off % 4 = 0) (hrst : s.rst = false)
    (hbusy : s.busy = true) (hfree : freeWhileBusy (regAt off) = true) (k : Word → State → Out) :
    hostRead off 4 k s = k (Config.freeWord s.draws) { s with draws := s.draws + 1 } := by
  rw [hostRead_admitted hlt halign, readReg_free hrst hbusy hfree, drawAny]

theorem writeReg_ignored {r : Reg} (hr : ignoresWrites r = true) (v : Word) (s : State) : writeReg r v s = s := by
  cases r with
  | id | dout _ | reserved => simp [writeReg]
  | _ => cases hr

theorem hostWrite_ignored {off : Nat} (hlt : off < 0x100) (halign : off % 4 = 0)
    (hoff : off = 0x000 ∨ (0x014 ≤ off ∧ off < 0x020) ∨ (0x060 ≤ off ∧ off < 0x080) ∨ 0x0C0 ≤ off)
    (v : Word) (s : State) : hostWrite off 4 v s = .next s :=
  hostWrite_effect rfl hlt halign
    (writeReg_ignored (ignoresWrites_of_offset (standsAt_regAt off) halign hoff) v s)

/-- Settles O50. -/
theorem readsHaveNoEffect : Obligations.ReadsHaveNoEffect := by
  intro r s
  obtain hvalue | ⟨hcause, hany⟩ := readReg_cases r s
  · rw [hvalue]
    exact ⟨rfl, fun _ _ => rfl⟩
  · rw [hany]
    refine ⟨rfl, fun hbusy hrst => ?_⟩
    simp [hbusy, hrst] at hcause

/-- Settles O49. -/
theorem accessesNotAdmitted : Obligations.AccessesNotAdmitted := by
  intro off width v k s
  constructor
  · intro hlt hnot
    have hrefused (k : Reg → Out) : window off width k = .refused (.accessNotAdmitted off width) := by
      rw [window, if_neg (by omega), if_pos hnot]
    exact ⟨hrefused _, hrefused _⟩
  · intro hbeyond
    have hfault (k : Reg → Out) : window off width k = .fault (.outsideWindow off) := if_pos hbeyond
    exact ⟨hfault _, hfault _⟩

/-- Settles O42. -/
theorem cmdAcceptance : Obligations.CmdAcceptance :=
  fun _ _ hrst hbusy => hostWrite_cmd hrst hbusy

/-- Settles O46. -/
theorem reservedOffsets : Obligations.ReservedOffsets := by
  intro off v k s hrst halign hoff
  have hlt : off < 0x100 := by omega
  have hreg : regAt off = .reserved := eq_reserved_of_offset (standsAt_regAt off) halign (by omega)
  exact ⟨hostRead_value hreg hlt halign nofun nofun hrst k, hostWrite_ignored hlt halign (by omega) v s⟩

/-- While BUSY = 0 a register reads at its offset as its value, and a write there has its effect (R76). -/
theorem access_regOffset {r : Reg} {v : Word} {s t : State} (hrst : s.rst = false) (hbusy : s.busy = false)
    (heffect : writeReg r v s = t) (k : Word → State → Out) :
    hostRead (regOffset r) 4 k s = k (regValue r s) s ∧ hostWrite (regOffset r) 4 v s = .next t := by
  obtain ⟨hlt, halign⟩ := regOffset_admitted r
  refine ⟨?_, hostWrite_effect (regAt_regOffset r) hlt halign heffect⟩
  rw [hostRead_defined hlt halign hrst (by simp [hbusy]), regAt_regOffset]

/-- Writing a word that a file has is `setW`. -/
theorem set_eq_setW {n i : Nat} (f : Vector Word n) (hi : i < n) (x : Word) : f.set i x = setW f i x :=
  file_ext fun j hj => by simp [getW_eq_getElem _ _ hj, setW, Vector.getElem_set, Vector.getElem_setIfInBounds]

/-- Settles O48: the offset of word `i` of a file is the one its register has. -/
theorem dataWindows : Obligations.DataWindows := by
  intro i v k s hrst hbusy
  constructor
  · intro hi
    rw [getW_eq_getElem _ _ hi, ← set_eq_setW _ hi]
    exact access_regOffset (r := .state ⟨i, hi⟩) hrst hbusy (writeReg_state hrst hbusy) k
  · intro hi
    obtain ⟨hkeyRead, hkeyWrite⟩ :=
      access_regOffset (r := .key ⟨i, hi⟩) (v := v) hrst hbusy (writeReg_key hrst hbusy) k
    obtain ⟨hdinRead, hdinWrite⟩ :=
      access_regOffset (r := .din ⟨i, hi⟩) (v := v) hrst hbusy (writeReg_din hrst hbusy) k
    obtain ⟨hdoutRead, hdoutWrite⟩ :=
      access_regOffset (r := .dout ⟨i, hi⟩) (v := v) hrst hbusy (writeReg_ignored rfl v s) k
    simp only [getW_eq_getElem _ _ hi, ← set_eq_setW _ hi]
    exact ⟨hkeyRead, hkeyWrite, hdinRead, hdinWrite, hdoutRead, hdoutWrite⟩

end Sys2Proof.Proofs.Window
end

section
/-! PROOFS. The host's moves (20_memory.md R75 to R84): which write of the host's next statement changes which field, and
what a command in flight keeps. -/

namespace Sys2Proof.Proofs.HostMoves

open Sys2Proof.Machine Sys2Proof.Safety Sys2Proof.Proofs.Window Sys2Proof.Proofs.Registers

/-! What a write did, and to which register. -/

/-- What a write of `v` makes of `s`, register by register; `WriteEffect` with the causes. -/
inductive RegWritten (v : Word) (s : State) : Reg → State → Prop where
  | ignored (r : Reg) : RegWritten v s r s
  | dropped (r : Reg) (hbusy : s.busy = true) (hr : droppedWhileBusy r = true) : RegWritten v s r (dropWrite s)
  | ctrl : RegWritten v s .ctrl { s with irqen := v.getLsbD 0 }
  | status : RegWritten v s .status (writeStatus v s)
  | variantTaken (hbusy : s.busy = false) (V : Variant) :
      RegWritten v s .config { s with variant := V, phase := .idle, sqzcnt := 0 }
  | variantRefused (hbusy : s.busy = false) (hv : 4 < v.toNat) :
      RegWritten v s .config { s with err := true, errcode := .variant }
  | accepted (hbusy : s.busy = false) : RegWritten v s .cmd (accept v s)
  | key (hbusy : s.busy = false) (i : Fin 8) : RegWritten v s (.key i) { s with key := s.key.set i v }
  | din (hbusy : s.busy = false) (i : Fin 8) : RegWritten v s (.din i) { s with din := s.din.set i v }
  | state (hbusy : s.busy = false) (i : Fin 16) : RegWritten v s (.state i) { s with S := s.S.set i v }

theorem writeConfig_written {v : Word} {s : State} (hbusy : s.busy = false) : RegWritten v s .config (writeConfig v s) := by
  obtain hv | hv := Nat.lt_or_ge 4 v.toNat
  · exact writeConfig_refused hv s ▸ .variantRefused hbusy hv
  · obtain ⟨V, -, hwrite, -⟩ := writeConfig_accepted hv s
    exact hwrite ▸ .variantTaken hbusy V

theorem writeReg_written (r : Reg) (v : Word) (s : State) : RegWritten v s r (writeReg r v s) := by
  cases hrst : s.rst with
  | true => exact (writeReg_rst hrst).symm ▸ .ignored r
  | false =>
    by_cases hdrop : s.busy = true ∧ droppedWhileBusy r = true
    · exact (writeReg_busy hrst hdrop.1 hdrop.2).symm ▸ .dropped r hdrop.1 hdrop.2
    have hidle (hr : droppedWhileBusy r = true) : s.busy = false := Bool.eq_false_iff.2 fun hb => hdrop ⟨hb, hr⟩
    cases r with
    | id | dout _ | reserved =>
      rw [writeReg_ignored rfl]
      exact .ignored _
    | ctrl => exact writeReg_ctrl hrst ▸ .ctrl
    | status => exact writeReg_status hrst ▸ .status
    | config => exact writeReg_config hrst (hidle rfl) ▸ writeConfig_written (hidle rfl)
    | cmd => exact writeReg_cmd hrst (hidle rfl) ▸ .accepted (hidle rfl)
    | key i => exact writeReg_key hrst (hidle rfl) ▸ .key (hidle rfl) i
    | din i => exact writeReg_din hrst (hidle rfl) ▸ .din (hidle rfl) i
    | state i => exact writeReg_state hrst (hidle rfl) ▸ .state (hidle rfl) i

/-- While a command is in flight a write changes IRQEN and the write-1-to-clear bits of STATUS at most (R79). -/
theorem regWritten_busy {v : Word} {s t : State} {r : Reg} (hbusy : s.busy = true) (h : RegWritten v s r t) :
    t = { s with irqen := t.irqen, done := t.done, err := t.err, errcode := t.errcode, ovr := t.ovr } := by
  cases h with
  | ignored | dropped | ctrl | status => rfl
  | variantTaken hidle | variantRefused hidle | accepted hidle | key hidle | din hidle | state hidle =>
    exact absurd hbusy (Bool.eq_false_iff.1 hidle)

/-- A write leaves the host program, what it has bound, and the count of free values. -/
theorem regWritten_own {v : Word} {s t : State} {r : Reg} (h : RegWritten v s r t) :
    t.host = s.host ∧ t.bound = s.bound ∧ t.draws = s.draws := by
  cases h <;> exact ⟨rfl, rfl, rfl⟩

/-- Settles O52. -/
theorem inFlightInputsFixed : Obligations.InFlightInputsFixed := by
  intro s t hbusy h
  obtain ⟨off, v, rest, -, ht⟩ | ⟨H, B, d, rfl⟩ := hostTurn_cases h
  · have hkept := regWritten_busy (s := { s with host := rest }) hbusy (ht ▸ writeReg_written (regAt off) v _)
    rw [hkept]
    exact ⟨rfl, rfl, rfl, rfl, rfl, rfl, rfl, hbusy⟩
  · exact ⟨rfl, rfl, rfl, rfl, rfl, rfl, rfl, hbusy⟩

/-- Settles O43. -/
theorem busyAccesses : Obligations.BusyAccesses := by
  intro s hrst hbusy
  refine ⟨fun off v halign hoff => ?dropped, fun v => hostWrite_ctrl hrst,
    fun v => ⟨_, hostWrite_status hrst, rfl, rfl, rfl⟩, fun off v halign hoff => ?ignored,
    fun off k halign hoff => ?value, fun off k halign hoff => ?free, fun t h => ?inputs⟩
  case dropped =>
    exact hostWrite_dropped (by omega) halign hrst hbusy ((droppedWhileBusy_iff (standsAt_regAt off)).2 hoff)
  case ignored => exact hostWrite_ignored (by omega) halign (by omega) v s
  case value =>
    have hvalue : freeWhileBusy (regAt off) = false :=
      Bool.eq_false_iff.2 (mt (freeWhileBusy_iff (standsAt_regAt off)).1 (by omega))
    exact hostRead_defined (by omega) halign hrst (fun _ => hvalue) k
  case free =>
    exact hostRead_free (by omega) halign hrst hbusy ((freeWhileBusy_iff (standsAt_regAt off)).2 hoff) k
  case inputs =>
    obtain ⟨hS, hkey, hdin, -⟩ := inFlightInputsFixed s t hbusy h
    exact ⟨hkey, hdin, hS⟩

/-! Which statement changes which field. -/

/-- A field the host's own data does not hold changes by a write of the next statement only. -/
theorem written_of_ne {α : Type} (field : State → α) {s t : State} (h : hostTurn s = .next t) (hne : field t ≠ field s)
    (hown : ∀ H B d, field { s with host := H, bound := B, draws := d } = field s := by intros; rfl) :
    ∃ off v rest r, s.host = .write off 4 v :: rest ∧ StandsAt r off ∧ RegWritten v { s with host := rest } r t := by
  obtain ⟨off, v, rest, hhost, rfl⟩ | ⟨H, B, d, rfl⟩ := hostTurn_cases h
  · exact ⟨off, v, rest, regAt off, hhost, standsAt_regAt off, writeReg_written _ v _⟩
  · exact absurd (hown H B d) hne

/-- A field no write changes is not changed by a move of the host. -/
theorem hostTurn_keeps {α : Type} (field : State → α) {s t : State} (h : hostTurn s = .next t)
    (hwrite : ∀ {v u w r}, RegWritten v u r w → field w = field u)
    (hown : ∀ u H B d, field { u with host := H, bound := B, draws := d } = field u := by intros; rfl) :
    field t = field s := by
  by_contra hne
  obtain ⟨off, v, rest, r, -, -, hw⟩ := written_of_ne field h hne (hown s)
  exact hne ((hwrite hw).trans (hown s rest s.bound s.draws))

theorem write_of_S_ne {s t : State} (h : hostTurn s = .next t) (hne : t.S ≠ s.S) :
    ∃ off v rest, s.host = .write off 4 v :: rest ∧ 0x080 ≤ off ∧ off < 0x0C0 := by
  obtain ⟨off, v, rest, r, hhost, hoff, hw⟩ := written_of_ne State.S h hne
  cases hw with
  | state => exact ⟨off, v, rest, hhost, hoff⟩
  | _ => exact absurd rfl hne

theorem write_of_key_ne {s t : State} (h : hostTurn s = .next t) (hne : t.key ≠ s.key) :
    ∃ off v rest, s.host = .write off 4 v :: rest ∧ 0x020 ≤ off ∧ off < 0x040 := by
  obtain ⟨off, v, rest, r, hhost, hoff, hw⟩ := written_of_ne State.key h hne
  cases hw with
  | key => exact ⟨off, v, rest, hhost, hoff⟩
  | _ => exact absurd rfl hne

theorem write_of_din_ne {s t : State} (h : hostTurn s = .next t) (hne : t.din ≠ s.din) :
    ∃ off v rest, s.host = .write off 4 v :: rest ∧ 0x040 ≤ off ∧ off < 0x060 := by
  obtain ⟨off, v, rest, r, hhost, hoff, hw⟩ := written_of_ne State.din h hne
  cases hw with
  | din => exact ⟨off, v, rest, hhost, hoff⟩
  | _ => exact absurd rfl hne

/-- PHASE, SQZCNT and VARIANT, which say where the operation stands. -/
def operation (s : State) : Phase × BitVec 4 × Variant := (s.phase, s.sqzcnt, s.variant)

theorem write_of_operation_ne {s t : State} (h : hostTurn s = .next t) (hne : operation t ≠ operation s) :
    ∃ v rest, s.host = .write 0x00C 4 v :: rest := by
  obtain ⟨off, v, rest, r, hhost, hoff, hw⟩ := written_of_ne operation h hne
  cases hw with
  | variantTaken => exact ⟨v, rest, (hoff : off = 0x00C) ▸ hhost⟩
  | _ => exact absurd rfl hne

theorem write_of_irqen_ne {s t : State} (h : hostTurn s = .next t) (hne : t.irqen ≠ s.irqen) :
    ∃ v rest, s.host = .write 0x004 4 v :: rest ∧ t.irqen = v.getLsbD 0 := by
  obtain ⟨off, v, rest, r, hhost, hoff, hw⟩ := written_of_ne State.irqen h hne
  cases hw with
  | ctrl => exact ⟨v, rest, (hoff : off = 0x004) ▸ hhost, rfl⟩
  | _ => exact absurd rfl hne

/-- PENDING and BUSY, which say what is in flight. -/
def inFlight (s : State) : Option Word × Bool := (s.pending, s.busy)

theorem write_of_inFlight_ne {s t : State} (h : hostTurn s = .next t) (hne : inFlight t ≠ inFlight s) :
    ∃ v rest, s.host = .write 0x010 4 v :: rest ∧ s.busy = false ∧ t.pending = some v ∧ t.busy = true := by
  obtain ⟨off, v, rest, r, hhost, hoff, hw⟩ := written_of_ne inFlight h hne
  cases hw with
  | accepted hbusy => exact ⟨v, rest, (hoff : off = 0x010) ▸ hhost, hbusy, rfl, rfl⟩
  | _ => exact absurd rfl hne

/-- A write-1-to-clear bit changes by a 1 written, which clears it (10_state.md R38). -/
theorem cleared_of_ne : ∀ {held bit : Bool}, (held && !bit) ≠ held → bit = true ∧ (held && !bit) = false := by decide

theorem write_of_done_ne {s t : State} (h : hostTurn s = .next t) (hne : t.done ≠ s.done) :
    t.done = false ∧ ∃ v rest,
      (s.host = .write 0x010 4 v :: rest ∧ s.busy = false) ∨ (s.host = .write 0x008 4 v :: rest ∧ v.getLsbD 1 = true) := by
  obtain ⟨off, v, rest, r, hhost, hoff, hw⟩ := written_of_ne State.done h hne
  cases hw with
  | accepted hbusy => exact ⟨rfl, v, rest, .inl ⟨(hoff : off = 0x010) ▸ hhost, hbusy⟩⟩
  | status =>
    obtain ⟨hbit, hclear⟩ := cleared_of_ne hne
    exact ⟨hclear, v, rest, .inr ⟨(hoff : off = 0x008) ▸ hhost, hbit⟩⟩
  | _ => exact absurd rfl hne

theorem write_of_ovr_ne {s t : State} (h : hostTurn s = .next t) (hne : t.ovr ≠ s.ovr) :
    ∃ off v rest, s.host = .write off 4 v :: rest ∧
      ((t.ovr = true ∧ s.busy = true ∧
          (off = 0x00C ∨ off = 0x010 ∨ (0x020 ≤ off ∧ off < 0x060) ∨ (0x080 ≤ off ∧ off < 0x0C0))) ∨
        (t.ovr = false ∧ off = 0x008 ∧ v.getLsbD 7 = true)) := by
  obtain ⟨off, v, rest, r, hhost, hoff, hw⟩ := written_of_ne State.ovr h hne
  refine ⟨off, v, rest, hhost, ?_⟩
  cases hw with
  | dropped _ hbusy hr => exact .inl ⟨rfl, hbusy, (droppedWhileBusy_iff hoff).1 hr⟩
  | status =>
    obtain ⟨hbit, hclear⟩ := cleared_of_ne hne
    exact .inr ⟨hclear, hoff, hbit⟩
  | _ => exact absurd rfl hne

/-- ERR and ERRCODE. -/
def errorStatus (s : State) : Bool × ErrCode := (s.err, s.errcode)

theorem write_of_errorStatus_ne {s t : State} (h : hostTurn s = .next t) (hne : errorStatus t ≠ errorStatus s) :
    ∃ off v rest, s.host = .write off 4 v :: rest ∧
      ((t.err = true ∧ t.errcode = .variant ∧ s.busy = false ∧ off = 0x00C ∧ 4 < v.toNat) ∨
        (t.err = false ∧ t.errcode = .noError ∧ off = 0x008 ∧ v.getLsbD 2 = true)) := by
  obtain ⟨off, v, rest, r, hhost, hoff, hw⟩ := written_of_ne errorStatus h hne
  refine ⟨off, v, rest, hhost, ?_⟩
  cases hw with
  | variantRefused hbusy hv => exact .inl ⟨rfl, rfl, hbusy, hoff, hv⟩
  | status =>
    simp only [errorStatus, writeStatus_err, writeStatus_errcode] at hne ⊢
    cases hbit : v.getLsbD 2 with
    | true => exact .inr ⟨Bool.and_false _, rfl, hoff, rfl⟩
    | false => exact absurd (by rw [hbit, Bool.not_false, Bool.and_true, if_neg Bool.false_ne_true]) hne
  | _ => exact absurd rfl hne

/-- The host's own data: a move drops the first statement at most, binds what RD reads, and draws a free value by a read
only. -/
theorem hostTurn_own {s t : State} (h : hostTurn s = .next t) :
    (t.host = s.host ∨ t.host = s.host.tail) ∧
    (t.bound = s.bound ∨ ∃ off name v rest, s.host = .read off 4 name :: rest ∧ t.bound = (name, v) :: s.bound) ∧
    (t.draws = s.draws ∨ (∃ off name rest, s.host = .read off 4 name :: rest) ∨ ∃ rest, s.host = .poll :: rest) := by
  unfold hostTurn at h
  split at h
  case h_1 =>
    cases h
    exact ⟨.inl rfl, .inl rfl, .inl rfl⟩
  case h_2 off width v rest hhost =>
    obtain ⟨-, rfl⟩ := hostWrite_next h
    obtain ⟨hrest, hbound, hdraws⟩ := regWritten_own (writeReg_written (regAt off) v { s with host := rest })
    exact ⟨.inr (by rw [hrest, hhost, List.tail_cons]), .inl hbound, .inl hdraws⟩
  case h_3 off width name rest hhost =>
    obtain ⟨-, -, rfl, -⟩ := window_next h
    obtain ⟨v, d, hk⟩ := hostRead_next h
    cases hk
    exact ⟨.inr (by rw [hhost, List.tail_cons]), .inr ⟨off, name, v, rest, hhost, rfl⟩,
      .inr (.inl ⟨off, name, rest, hhost⟩)⟩
  case h_4 rest hhost =>
    obtain ⟨v, d, hk⟩ := hostRead_next h
    split at hk <;> cases hk
    · exact ⟨.inl rfl, .inl rfl, .inr (.inr ⟨rest, hhost⟩)⟩
    · exact ⟨.inr (by rw [hhost, List.tail_cons]), .inl rfl, .inr (.inr ⟨rest, hhost⟩)⟩
  case h_5 rest hhost =>
    split at h <;> cases h
    · exact ⟨.inr (by rw [hhost, List.tail_cons]), .inl rfl, .inl rfl⟩
    · exact ⟨.inl rfl, .inl rfl, .inl rfl⟩

/-- The value of a register does not depend on the host program. -/
theorem regValue_host (r : Reg) (rest : List HostStmt) (s : State) :
    regValue r { s with host := rest } = regValue r s := by
  cases r <;> rfl

/-- RD binds the value the register has (30_encoding.md R111). -/
theorem hostTurn_read {off name : Nat} {rest : List HostStmt} {s : State} (hhost : s.host = .read off 4 name :: rest)
    (hlt : off < 0x100) (halign : off % 4 = 0) (hrst : s.rst = false)
    (hfree : s.busy = true → freeWhileBusy (regAt off) = false) :
    hostTurn s = .next { s with host := rest, bound := (name, regValue (regAt off) s) :: s.bound } := by
  simp only [hostTurn, hhost]
  rw [hostRead_defined (s := { s with host := rest }) hlt halign hrst hfree, regValue_host]

/-- Settles O53. -/
theorem hostMoveFrame : Obligations.HostMoveFrame := by
  refine ⟨fun s t h => ?frame, fun off name rest s hhost hrst hlt halign hfree => ?binds⟩
  case frame =>
    obtain ⟨hhost, hbound, hdraws⟩ := hostTurn_own h
    have hdout : t.dout = s.dout := hostTurn_keeps State.dout h fun hw => by cases hw <;> rfl
    have hverified : t.verified = s.verified := hostTurn_keeps State.verified h fun hw => by cases hw <;> rfl
    have hrst : t.rst = s.rst := hostTurn_keeps State.rst h fun hw => by cases hw <;> rfl
    have hturns : t.turns = s.turns := hostTurn_keeps State.turns h fun hw => by cases hw <;> rfl
    refine ⟨hdout, hverified, hrst, hturns, hhost, write_of_S_ne h, write_of_key_ne h, write_of_din_ne h,
      fun hne => write_of_operation_ne h ?_, write_of_irqen_ne h, fun hne => write_of_inFlight_ne h ?_,
      write_of_done_ne h, write_of_ovr_ne h, fun hne => write_of_errorStatus_ne h ?_, hbound.resolve_left,
      hdraws.resolve_left⟩
    · simpa only [operation, ne_eq, Prod.mk.injEq, not_and_or] using hne
    · simpa only [inFlight, ne_eq, Prod.mk.injEq, not_and_or] using hne
    · simpa only [errorStatus, ne_eq, Prod.mk.injEq, not_and_or] using hne
  case binds =>
    have hvalue (hbusy : s.busy = true) : freeWhileBusy (regAt off) = false :=
      Bool.eq_false_iff.2 (mt (freeWhileBusy_iff (standsAt_regAt off)).1 (by have := hfree hbusy; omega))
    exact ⟨_, hostRead_defined hlt halign hrst hvalue, hostTurn_read hhost hlt halign hrst hvalue⟩

end Sys2Proof.Proofs.HostMoves
end

section
/-! PROOFS. What a step answers (20_memory.md R74, R78): the engine runs the decoded command, and only an access that is
not admitted stops the machine. -/

namespace Sys2Proof.Proofs.Steps

open Sys2Proof.Machine Sys2Proof.Safety Sys2Proof.Laws Sys2Proof.Proofs.Window Sys2Proof.Proofs.Frame
  Sys2Proof.Proofs.HostMoves

/-! The decoded command. -/

/-- A packed word decodes to the command its OP names, where the fields that command does not use are 0 (30_encoding.md
R105). -/
theorem decode_packWord {op : BitVec 5} {len : BitVec 6} {nb : BitVec 2} {steps : BitVec 5} {i : Instr}
    (hi : instrOf op len nb steps = some i) (hlen : i.usesLen = false → len = 0)
    (hperm : i.usesNbSteps = false → nb = 0 ∧ steps = 0) (hwf : i.wf = true) :
    decode (packWord op len nb steps) = .ok i := by
  unfold decode
  rw [packWord_opField, packWord_lenField, packWord_nbField, packWord_stepsField, packWord_lowReserved,
    packWord_highReserved, hi]
  have hunusedLen : ¬(i.usesLen = false ∧ len ≠ 0) := fun h => h.2 (hlen h.1)
  have hunusedPerm : ¬(i.usesNbSteps = false ∧ (nb ≠ 0 ∨ steps ≠ 0)) := fun h => by simp [hperm h.1] at h
  simp only [hunusedLen, hunusedPerm, hwf, ne_eq, not_true_eq_false, or_self, if_false, Bool.true_eq_false]

theorem decode_encode {i : Instr} (hwf : i.wf = true) : decode (encode i) = .ok i := by
  cases i with
  | perm nb steps => exact decode_packWord rfl (fun _ => rfl) nofun hwf
  | hashLast len | aeadAdLast len | aeadEncLast len | aeadDecLast len =>
    exact decode_packWord rfl nofun (fun _ => ⟨rfl, rfl⟩) rfl
  | _ => exact decode_packWord rfl (fun _ => rfl) (fun _ => ⟨rfl, rfl⟩) rfl

theorem engineTurn_decoded {s : State} {w : Word} {i : Instr} (hrst : s.rst = false) (hbusy : s.busy = true)
    (hpending : s.pending = some w) (hdecode : decode w = .ok i) : engineTurn s = exec i s := by
  simp [engineTurn, engineEnabled, engineStep, hrst, hbusy, hpending, hdecode]

/-- The engine moves where its turn is the next one. -/
theorem step_engine {s : State} {rest : List Turn} (hturns : s.turns = .engine :: rest) :
    step s = engineTurn { s with turns := rest } := by
  simp only [step, takeTurn, hturns]

/-- The engine moves where no turn is left and it can (log entry 1). -/
theorem step_no_turn {s : State} (hturns : s.turns = []) (hrst : s.rst = false) (hbusy : s.busy = true) :
    step s = engineTurn s := by
  simp [step, takeTurn, hturns, engineEnabled, hrst, hbusy]

theorem withFetchWord_toNat (s : State) (w : Word) : s.withFetchWord 32 w.toNat = placeCommand w s := by
  rw [State.withFetchWord, Nat.mod_eq_of_lt w.isLt, BitVec.ofNat_toNat, BitVec.setWidth_eq]

/-- Settles O6. -/
theorem stepRunsDecoded : Obligations.StepRunsDecoded := by
  refine ⟨fun s w i rest hrst hbusy hpending hdecode hturns => ?_, fun s w i hrst hbusy hpending hdecode hturns => ?_,
    fun s i hwf => ?_⟩
  · rw [step_engine hturns]
    exact engineTurn_decoded hrst hbusy hpending hdecode
  · rw [step_no_turn hturns hrst hbusy]
    exact engineTurn_decoded hrst hbusy hpending hdecode
  · rw [withFetchWord_toNat, step_engine rfl]
    exact engineTurn_decoded rfl rfl rfl (decode_encode hwf)

/-! Progress. -/

/-- A move of the engine never stops, and leaves the host program. -/
theorem engineTurn_progress (s : State) : ∃ t, engineTurn s = .next t ∧ t.host = s.host := by
  obtain ⟨hex, -⟩ | ⟨-, w, e, -, -, hex⟩ | ⟨-, w, i, -, -, hex⟩ := engineTurn_cases s
  · exact ⟨s, hex, rfl⟩
  · exact ⟨_, hex, rfl⟩
  · obtain ⟨t, ht⟩ : ∃ t, exec i s = .next t := by
      obtain ⟨-, h⟩ | ⟨-, h⟩ := exec_cases i s <;> exact ⟨_, h⟩
    exact ⟨t, hex.trans ht, exec_keeps State.host ht (execEffect_host i s)⟩

theorem accessAdmitted_iff {off width : Nat} :
    accessAdmitted off width = true ↔ off < 0x100 ∧ off % 4 = 0 ∧ width = 4 := by
  simp [accessAdmitted, and_assoc]

/-- An admitted access reaches its register. -/
theorem window_of_accessAdmitted {off width : Nat} (h : accessAdmitted off width = true) (k : Reg → Out) :
    window off width k = k (regAt off) := by
  obtain ⟨hlt, halign, rfl⟩ := accessAdmitted_iff.1 h
  exact window_admitted hlt halign k

/-- A move of the host stops on an access that is not admitted only. -/
theorem hostTurn_progress {s : State} (h : HostAdmitted s) : ∃ t, hostTurn s = .next t := by
  unfold hostTurn
  split
  case h_1 => exact ⟨_, rfl⟩
  case h_2 off width v rest hhost =>
    have hadmitted : accessAdmitted off width = true := h (.write off width v) (by simp [hhost])
    exact ⟨_, window_of_accessAdmitted hadmitted _⟩
  case h_3 off width name rest hhost =>
    have hadmitted : accessAdmitted off width = true := h (.read off width name) (by simp [hhost])
    exact ⟨_, window_of_accessAdmitted hadmitted _⟩
  case h_4 rest hhost =>
    rw [hostRead_admitted (by decide) (by decide)]
    split <;> exact ⟨_, rfl⟩
  case h_5 => split <;> exact ⟨_, rfl⟩

theorem driveRst_host (level : Bool) (s : State) : (driveRst level s).host = s.host := by
  unfold driveRst
  split_ifs <;> rfl

/-- Where the host's accesses are admitted a step answers a next state, and drops the first statement at most. -/
theorem step_progress {s : State} (h : HostAdmitted s) :
    ∃ t, step s = .next t ∧ (t.host = s.host ∨ t.host = s.host.tail) := by
  have hhostTurn {u : State} (hu : u.host = s.host) :
      ∃ t, hostTurn u = .next t ∧ (t.host = s.host ∨ t.host = s.host.tail) := by
    obtain ⟨t, ht⟩ := hostTurn_progress (s := u) (by rwa [HostAdmitted, hu])
    exact ⟨t, ht, hu ▸ (hostTurn_own ht).1⟩
  obtain ⟨-, -, hs⟩ | ⟨-, -, hs⟩ | ⟨rest, -, hs⟩ | ⟨rest, -, hs⟩ | ⟨level, rest, -, hs⟩ := step_cases s <;> rw [hs]
  · obtain ⟨t, ht, hhost⟩ := engineTurn_progress s
    exact ⟨t, ht, .inl hhost⟩
  · exact hhostTurn rfl
  · exact hhostTurn rfl
  · obtain ⟨t, ht, hhost⟩ := engineTurn_progress { s with turns := rest }
    exact ⟨t, ht, .inl hhost⟩
  · exact ⟨_, rfl, .inl (driveRst_host level _)⟩

/-- Settles O60. -/
theorem stepNeverStops : Obligations.StepNeverStops := by
  intro s h
  obtain ⟨t, ht, hhost | hhost⟩ := step_progress h
  · exact ⟨t, ht, fun stmt hstmt => h stmt (hhost ▸ hstmt)⟩
  · exact ⟨t, ht, fun stmt hstmt => h stmt (List.mem_of_mem_tail (hhost ▸ hstmt))⟩

end Sys2Proof.Proofs.Steps
end

section
/-! PROOFS. The encoding (30_encoding.md R100 to R113): decoder and encoder are inverse to each other, exactly the words of
R105 are illegal, and the assembler writes the words of the encoder. -/

namespace Sys2Proof.Proofs.Encoding

open Sys2Proof.Machine Sys2Proof.Safety Sys2Proof.Laws Sys2Proof.Proofs.Checks Sys2Proof.Proofs.Steps

/-! Decoder and encoder. -/

/-- Settles O1: the encoder packs the OP value and the operands that `decode_packWord` reads back. -/
theorem decodeOfEncode : Obligations.DecodeOfEncode := fun _ => decode_encode

/-- The field rules of R105 for a word whose OP names the command `i`. -/
structure FieldsLegal (w : Word) (i : Instr) : Prop where
  low : lowReserved w = 0
  high : highReserved w = 0
  len : i.usesLen = false → lenField w = 0
  nbSteps : i.usesNbSteps = false → nbField w = 0 ∧ stepsField w = 0
  wf : i.wf = true

theorem fieldsLegal_iff {w : Word} {i : Instr} : FieldsLegal w i ↔
    lowReserved w = 0 ∧ highReserved w = 0 ∧ (i.usesLen = false → lenField w = 0) ∧
      (i.usesNbSteps = false → nbField w = 0 ∧ stepsField w = 0) ∧ i.wf = true :=
  ⟨fun h => ⟨h.low, h.high, h.len, h.nbSteps, h.wf⟩, fun ⟨hlow, hhigh, hlen, hnbSteps, hwf⟩ =>
    ⟨hlow, hhigh, hlen, hnbSteps, hwf⟩⟩

/-- A word whose reserved bits are 0 is the packing of its fields (R100). -/
theorem packWord_fields {w : Word} (hlow : lowReserved w = 0) (hhigh : highReserved w = 0) :
    packWord (opField w) (lenField w) (nbField w) (stepsField w) = w := by
  rw [packWord, ← hlow, ← hhigh, opField, lowReserved, lenField, nbField, stepsField, highReserved]
  rw [BitVec.extractLsb'_append_extractLsb'_eq_extractLsb' (show 21 = 16 + 5 from rfl),
    BitVec.extractLsb'_append_extractLsb'_eq_extractLsb' (show 16 = 14 + 2 from rfl),
    BitVec.extractLsb'_append_extractLsb'_eq_extractLsb' (show 14 = 8 + 6 from rfl),
    BitVec.extractLsb'_append_extractLsb'_eq_extractLsb' (show 8 = 5 + 3 from rfl),
    BitVec.extractLsb'_append_extractLsb'_eq_extractLsb' (show 5 = 0 + 5 from rfl)]
  exact BitVec.extractLsb'_eq_self

/-- A word decodes to the command its OP names exactly where it keeps the field rules. -/
theorem decode_eq_ok_iff {w : Word} {i : Instr} : decode w = .ok i ↔
    instrOf (opField w) (lenField w) (nbField w) (stepsField w) = some i ∧ FieldsLegal w i := by
  constructor
  · intro h
    unfold decode at h
    split at h
    · cases h
    · next j hj =>
      split_ifs at h with hreserved hlen hnbSteps hwf
      cases h
      obtain ⟨hlow, hhigh⟩ := not_or.1 hreserved
      refine ⟨hj, not_not.1 hlow, not_not.1 hhigh, fun hu => ?_, fun hu => ?_, by simpa using hwf⟩
      · exact not_not.1 fun hne => hlen ⟨hu, hne⟩
      · exact not_not.1 fun hne => hnbSteps ⟨hu, not_and_or.1 hne⟩
  · rintro ⟨hi, hlow, hhigh, hlen, hnbSteps, hwf⟩
    rw [← packWord_fields hlow hhigh]
    exact decode_packWord hi hlen hnbSteps hwf

/-- The encoder inverts the opcode map (R106) where the fields the command does not use are 0. -/
theorem encode_of_instrOf {op : BitVec 5} {len : BitVec 6} {nb : BitVec 2} {steps : BitVec 5} {i : Instr}
    (hi : instrOf op len nb steps = some i) (hlen : i.usesLen = false → len = 0)
    (hnbSteps : i.usesNbSteps = false → nb = 0 ∧ steps = 0) : encode i = packWord op len nb steps := by
  unfold instrOf at hi
  split at hi <;> cases hi
  all_goals
    obtain ⟨-, rfl⟩ := BitVec.toNat_eq_nat.1 ‹op.toNat = _›
    simp_all [encode, Instr.usesLen, Instr.usesNbSteps]

/-- Settles O2: the fields of a word that decodes pack to the word, and the encoder packs the same fields. -/
theorem encodeOfDecode : Obligations.EncodeOfDecode := by
  intro w i h
  obtain ⟨hi, hlow, hhigh, hlen, hnbSteps, hwf⟩ := decode_eq_ok_iff.1 h
  exact ⟨hwf, (encode_of_instrOf hi hlen hnbSteps).trans (packWord_fields hlow hhigh)⟩

/-! Illegal words. -/

/-- The reserved OP values (R108). -/
theorem notMem_definedOps_iff {op : Nat} :
    op ∉ definedOps ↔ (0x03 ≤ op ∧ op ≤ 0x07) ∨ (0x0C ≤ op ∧ op ≤ 0x0F) ∨ 0x19 ≤ op := by
  simp only [definedOps, List.mem_cons, List.not_mem_nil, or_false]
  omega

/-- The conditions of R105 on the fields other than OP, by the value of OP. -/
def BreaksFieldRule (w : Word) : Prop :=
  lowReserved w ≠ 0 ∨ highReserved w ≠ 0 ∨ (lenField w ≠ 0 ∧ (opField w).toNat ∉ lastOps) ∨
    ((nbField w ≠ 0 ∨ stepsField w ≠ 0) ∧ (opField w).toNat ≠ 0x02) ∨
    (nbField w = 3 ∧ (opField w).toNat = 0x02)

/-- The rules by the kind of the command and the conditions by OP values are the same. -/
theorem not_fieldsLegal_iff {w : Word} {i : Instr}
    (hi : instrOf (opField w) (lenField w) (nbField w) (stepsField w) = some i) :
    ¬FieldsLegal w i ↔ BreaksFieldRule w := by
  obtain ⟨hop, -, hnb⟩ := instrOf_eq_some hi
  have hwf : i.wf = false ↔ nbField w = 3 ∧ i.usesNbSteps = true := by
    cases i with
    | perm nb steps => simp [Instr.usesNbSteps, Instr.wf, hnb nb steps rfl]
    | _ => simp [Instr.usesNbSteps, Instr.wf]
  rw [fieldsLegal_iff, BreaksFieldRule, hop, opcode_mem_lastOps, ne_eq (opcode i), opcode_eq_perm]
  simp only [not_and_or, Classical.not_imp, ne_eq, Bool.not_eq_true, hwf]
  simp only [and_comm]

/-- A word is illegal exactly where its OP is reserved or a field rule is broken. -/
theorem decode_error_iff {w : Word} :
    (∃ e, decode w = .error e) ↔ BreaksFieldRule w ∨ (opField w).toNat ∉ definedOps := by
  have hok : (∃ e, decode w = .error e) ↔ ∀ i, decode w ≠ .ok i := by cases decode w <;> simp
  simp only [hok, ne_eq, decode_eq_ok_iff, not_and]
  cases hi : instrOf (opField w) (lenField w) (nbField w) (stepsField w) with
  | none => simp [instrOf_eq_none hi]
  | some i =>
    have hdefined : (opField w).toNat ∈ definedOps := (instrOf_eq_some hi).1 ▸ opcode_mem_definedOps i
    simp [hdefined, ← not_fieldsLegal_iff hi]

/-- The engine refuses an illegal word with ILLEGAL (60_exceptions.md R242). -/
theorem engineTurn_illegal {s : State} {w : Word} {e : DecodeError} (hbusy : s.busy = true) (hrst : s.rst = false)
    (hpending : s.pending = some w) (hdecode : decode w = .error e) : engineTurn s = .next (refuse .illegal s) := by
  simp [engineTurn, engineEnabled, engineStep, hrst, hbusy, hpending, hdecode]

/-- Settles O3. -/
theorem illegalWords : Obligations.IllegalWords := by
  refine ⟨fun w => ?_, fun s w e hbusy hrst hpending hdecode => ?_⟩
  · rw [decode_error_iff, notMem_definedOps_iff]
    simp only [BreaksFieldRule, or_assoc]
    rfl
  · exact engineTurn_illegal hbusy hrst hpending hdecode

/-! The assembler. -/

/-- The assembler's word is the packing of the fields (R100, R110). -/
theorem asmWord_eq_packWord (op : BitVec 5) (len : BitVec 6) (nb : BitVec 2) (steps : BitVec 5) :
    asmWord op.toNat len.toNat nb.toNat steps.toNat = packWord op len nb steps := by
  have h : (packWord op len nb steps).toNat =
      op.toNat ||| len.toNat <<< 8 ||| nb.toNat <<< 14 ||| steps.toNat <<< 16 := by
    simp only [packWord, BitVec.toNat_append, Nat.shiftLeft_or_distrib, ← Nat.shiftLeft_add]
    simp [Nat.or_comm, Nat.or_assoc]
  rw [asmWord, ← h, BitVec.ofNat_toNat, BitVec.setWidth_eq]

theorem assemble_plain {m : String} {op : BitVec 5} (h : plainOp m = some op.toNat) :
    assemble { mnemonic := m } = some (packWord op 0 0 0) := by
  rw [← asmWord_eq_packWord]
  simp [assemble, h]

theorem assemble_last {m : String} {op : BitVec 5} (h : lastOp m = some op.toNat) (len : BitVec 6) :
    assemble { mnemonic := m, len := some len.toNat } = some (packWord op len 0 0) := by
  rw [← asmWord_eq_packWord]
  simp [assemble, h, len.isLt]

theorem nbCodeOf_branchCount {nb : BitVec 2} (h : nb ≠ 3) : nbCodeOf ((branchCount nb).getD 0) = some nb.toNat := by
  revert nb
  decide

/-- The line of a well-formed command assembles to its word. -/
theorem assemble_asmLine {i : Instr} (hwf : i.wf = true) : assemble (asmLine i) = some (encode i) := by
  cases i with
  | perm nb steps =>
    have hnb : nb ≠ 3 := by simpa [Instr.wf] using hwf
    simp [assemble, asmLine, encode, nbCodeOf_branchCount hnb, steps.isLt, ← asmWord_eq_packWord]
  | hashLast len | aeadAdLast len | aeadEncLast len | aeadDecLast len => exact assemble_last rfl len
  | _ => exact assemble_plain rfl

/-- A mnemonic of a command without fields is that of a command. -/
theorem exists_asmLine_of_plainOp {m : String} {op : Nat} (h : plainOp m = some op) :
    ∃ i : Instr, i.wf = true ∧ asmLine i = { mnemonic := m } := by
  unfold plainOp at h
  split at h
  · exact ⟨.nop, rfl, rfl⟩
  · exact ⟨.clear, rfl, rfl⟩
  · exact ⟨.hashInit, rfl, rfl⟩
  · exact ⟨.hashAbsorb, rfl, rfl⟩
  · exact ⟨.hashSqueeze, rfl, rfl⟩
  · exact ⟨.aeadInit, rfl, rfl⟩
  · exact ⟨.aeadAd, rfl, rfl⟩
  · exact ⟨.aeadEnc, rfl, rfl⟩
  · exact ⟨.aeadDec, rfl, rfl⟩
  · exact ⟨.aeadTag, rfl, rfl⟩
  · exact ⟨.aeadVerify, rfl, rfl⟩
  · cases h

/-- A mnemonic of a last-block command with a byte count LEN can hold is the line of a command. -/
theorem exists_asmLine_of_lastOp {m : String} {op : Nat} (h : lastOp m = some op) (len : BitVec 6) :
    ∃ i : Instr, i.wf = true ∧ asmLine i = { mnemonic := m, len := some len.toNat } := by
  unfold lastOp at h
  split at h
  · exact ⟨.hashLast len, rfl, rfl⟩
  · exact ⟨.aeadAdLast len, rfl, rfl⟩
  · exact ⟨.aeadEncLast len, rfl, rfl⟩
  · exact ⟨.aeadDecLast len, rfl, rfl⟩
  · cases h

/-- A branch count with an NB code is that of a code other than 3 (R103). -/
theorem exists_branchCount_of_nbCodeOf {nb code : Nat} (h : nbCodeOf nb = some code) :
    ∃ c : BitVec 2, c ≠ 3 ∧ branchCount c = some nb := by
  unfold nbCodeOf at h
  split at h
  · exact ⟨0, by decide, rfl⟩
  · exact ⟨1, by decide, rfl⟩
  · exact ⟨2, by decide, rfl⟩
  · cases h

/-- A line that assembles is the line of a well-formed command. -/
theorem exists_asmLine_of_assemble {l : AsmLine} {w : Word} (h : assemble l = some w) :
    ∃ i : Instr, i.wf = true ∧ asmLine i = l := by
  obtain ⟨m, nb, steps, len⟩ := l
  simp only [assemble] at h
  split at h
  · obtain ⟨op, hop, -⟩ := Option.map_eq_some_iff.1 h
    exact exists_asmLine_of_plainOp hop
  · next n =>
    split_ifs at h with hlt
    obtain ⟨op, hop, -⟩ := Option.map_eq_some_iff.1 h
    simpa [Nat.mod_eq_of_lt hlt] using exists_asmLine_of_lastOp hop (BitVec.ofNat 6 n)
  · next b n =>
    split_ifs at h with hperm
    obtain ⟨rfl, hlt⟩ := hperm
    obtain ⟨code, hcode, -⟩ := Option.map_eq_some_iff.1 h
    obtain ⟨c, hc, hb⟩ := exists_branchCount_of_nbCodeOf hcode
    exact ⟨.perm c (BitVec.ofNat 5 n), by simpa [Instr.wf] using hc, by simp [asmLine, hb, Nat.mod_eq_of_lt hlt]⟩
  · cases h

/-- Settles O5: a line that assembles is the line of a command, and the line of a command assembles to its word. -/
theorem assemblerExact : Obligations.AssemblerExact := by
  intro l w
  constructor
  · intro h
    obtain ⟨i, hwf, rfl⟩ := exists_asmLine_of_assemble h
    rw [assemble_asmLine hwf] at h
    exact ⟨i, hwf, rfl, Option.some.inj h⟩
  · rintro ⟨i, hwf, rfl, rfl⟩
    exact assemble_asmLine hwf

/-- Settles O4: the words of R110 and R113, run through the decoder. -/
theorem specWordsDecode : Obligations.SpecWordsDecode := by
  unfold Obligations.SpecWordsDecode
  decide

end Sys2Proof.Proofs.Encoding
end

section
/-! PROOFS. The parts of the Sparkle permutation (40_permutation.md R131 to R137): each layer branch by branch, and
that each one loses nothing. -/

namespace Sys2Proof.Proofs.Permutation

open Sys2Proof.Machine

/-! The word function and the ARX box. -/

theorem rotr_zero (a : Word) : rotr a 0 = a := by
  apply BitVec.eq_of_getLsbD_eq
  intro i hi
  simp [rotr, hi]

/-- Bit `k` of a word by its 16-bit halves. -/
theorem getLsbD_halves (hi lo : BitVec 16) (k : Nat) :
    (hi ++ lo : Word).getLsbD k = if k < 16 then lo.getLsbD k else hi.getLsbD (k - 16) :=
  BitVec.getLsbD_append

/-- ℓ on 16-bit halves (R131). -/
theorem ell_append (hi lo : BitVec 16) : ell (hi ++ lo) = lo ++ (hi ^^^ lo) := by
  apply BitVec.eq_of_getLsbD_eq
  intro i hi32
  simp only [ell, rotr, BitVec.getLsbD_or, BitVec.getLsbD_ushiftRight, BitVec.getLsbD_shiftLeft, BitVec.getLsbD_xor,
    getLsbD_halves]
  rcases Nat.lt_or_ge i 16 with h | h
  · simp [h, show 16 + i < 32 by omega]
  · simp [show ¬i < 16 by omega, show ¬16 + i < 32 by omega, hi32, show i - 16 < 16 by omega,
      BitVec.getLsbD_of_ge hi i h]

/-- Settles O12: the halves bit by bit, the examples by evaluation. -/
theorem ellHalves : Obligations.EllHalves :=
  ⟨fun _ => rfl, ell_append, by decide⟩

/-- Settles O13: the third line, which rotates by 0, adds `y` itself. -/
theorem alzetteLines : Obligations.AlzetteLines := by
  refine ⟨by decide, ?_⟩
  rintro x0 y0 c _ _ _ _ _ _ _ _ rfl rfl rfl rfl rfl rfl rfl rfl
  simp only [alzette, alzetteLine, rotr_zero]

/-- A line of Alzette can be undone: `x` and then `y` are read back from its result. -/
theorem alzetteLine_injective (r s : Nat) (c : Word) : Function.Injective (alzetteLine r s c) := by
  rintro ⟨x, y⟩ ⟨x', y'⟩ h
  obtain ⟨hx, hy⟩ := Prod.mk.inj h
  have hsum : x + rotr y r = x' + rotr y' r := (BitVec.xor_left_inj _).1 hx
  rw [hsum] at hy
  obtain rfl : y = y' := (BitVec.xor_left_inj _).1 hy
  rw [(BitVec.add_left_inj _).1 hsum]

/-! Branches. -/

/-- Branch `j` of the state, left word and right word (10_state.md R32). -/
def branch (S : Vector Word 16) (j : Nat) : Word × Word := (getW S (2 * j), getW S (2 * j + 1))

/-- `x_j, y_j <- p`. -/
def setBranch (S : Vector Word 16) (j : Nat) (p : Word × Word) : Vector Word 16 :=
  setW (setW S (2 * j) p.1) (2 * j + 1) p.2

theorem branch_setBranch_same (S : Vector Word 16) {j : Nat} (p : Word × Word) (hj : j < 8) :
    branch (setBranch S j p) j = p := by
  rw [branch, setBranch, getW_setW_other _ _ _ _ (by omega), getW_setW_same _ _ _ (by omega),
    getW_setW_same _ _ _ (by omega)]

theorem branch_setBranch_other (S : Vector Word 16) {j k : Nat} (p : Word × Word) (h : j ≠ k) :
    branch (setBranch S j p) k = branch S k := by
  simp only [branch, setBranch]
  iterate 4 rw [getW_setW_other _ _ _ _ (by omega)]

/-- The words of a state are those of its branches. -/
theorem getW_eq_of_branch_eq {S T : Vector Word 16} {k : Nat} (h : branch S (k / 2) = branch T (k / 2)) :
    getW S k = getW T k := by
  obtain ⟨hx, hy⟩ := Prod.mk.inj h
  obtain hk | hk : k = 2 * (k / 2) ∨ k = 2 * (k / 2) + 1 := by omega
  · rwa [hk]
  · rwa [hk]

/-- The first `n` branches of two states are the same. -/
def SameBranches (n : Nat) (S T : Vector Word 16) : Prop := ∀ j < n, branch S j = branch T j

theorem sameBranches_iff {n : Nat} {S T : Vector Word 16} :
    SameBranches n S T ↔ ∀ k < 2 * n, getW S k = getW T k := by
  constructor
  · exact fun h k hk => getW_eq_of_branch_eq (h _ (by omega))
  · exact fun h j hj => Prod.ext (h _ (by omega)) (h _ (by omega))

/-- The eight branches are the whole state. -/
theorem eq_of_sameBranches {S T : Vector Word 16} (h : SameBranches 8 S T) : S = T :=
  file_ext (sameBranches_iff.1 h)

/-! Step constants. -/

/-- What step `i` adds to word `k` (R134). -/
def stepConstant (i k : Nat) : Word := if k = 1 then rc (i % 8) else if k = 3 then BitVec.ofNat 32 i else 0

theorem getW_stepConstants (i k : Nat) (S : Vector Word 16) :
    getW (stepConstants i S) k = getW S k ^^^ stepConstant i k := by
  unfold stepConstants stepConstant
  rcases eq_or_ne k 1 with rfl | h1
  · simp
  rcases eq_or_ne k 3 with rfl | h3
  · simp
  · simp [h1, h3, h1.symm, h3.symm]

theorem getW_stepConstants_other (i : Nat) (S : Vector Word 16) {k : Nat} (h1 : k ≠ 1) (h3 : k ≠ 3) :
    getW (stepConstants i S) k = getW S k := by
  simp [getW_stepConstants, stepConstant, h1, h3]

/-- Settles O14: each word changes by its constant, 0 for most. -/
theorem stepConstantWords : Obligations.StepConstantWords :=
  fun i S => ⟨getW_stepConstants i 1 S, getW_stepConstants i 3 S, fun _ => getW_stepConstants_other i S⟩

theorem stepConstants_injective (i : Nat) : Function.Injective (stepConstants i) := by
  intro S T h
  apply file_ext
  intro k _
  have hk : getW (stepConstants i S) k = getW (stepConstants i T) k := by rw [h]
  rw [getW_stepConstants, getW_stepConstants] at hk
  exact (BitVec.xor_left_inj _).1 hk

theorem stepConstants_sameBranches (i : Nat) {n : Nat} {S T : Vector Word 16} (h : SameBranches n S T) :
    SameBranches n (stepConstants i S) (stepConstants i T) := by
  refine sameBranches_iff.2 fun k hk => ?_
  rw [getW_stepConstants, getW_stepConstants, sameBranches_iff.1 h k hk]

/-! The ARX layer. -/

/-- Alzette of one branch with the constant of branch `j`. -/
def arxBox (j : Nat) (p : Word × Word) : Word × Word := alzette p.1 p.2 (rc j)

theorem arxBox_injective (j : Nat) : Function.Injective (arxBox j) :=
  (alzetteLine_injective ..).comp <| (alzetteLine_injective ..).comp <|
    (alzetteLine_injective ..).comp (alzetteLine_injective ..)

theorem arxLayer_succ (n : Nat) (S : Vector Word 16) :
    arxLayer (n + 1) S = setBranch (arxLayer n S) n (arxBox n (branch (arxLayer n S) n)) := by
  rw [arxLayer, List.range_succ, List.foldl_append]
  rfl

/-- The ARX layer works on each of its branches alone (R137). -/
theorem branch_arxLayer {nb : Nat} (hnb : nb ≤ 8) (S : Vector Word 16) (j : Nat) :
    branch (arxLayer nb S) j = if j < nb then arxBox j (branch S j) else branch S j := by
  induction nb with
  | zero => rfl
  | succ n ih =>
    replace ih := ih (by omega)
    rw [arxLayer_succ]
    rcases eq_or_ne n j with rfl | hj
    · rw [branch_setBranch_same _ _ (by omega), ih, if_neg (by omega), if_pos (by omega)]
    · rw [branch_setBranch_other _ _ hj, ih]
      exact if_congr (by omega) rfl rfl

theorem getW_arxLayer_beyond {nb k : Nat} (hnb : nb ≤ 8) (hk : 2 * nb ≤ k) (S : Vector Word 16) :
    getW (arxLayer nb S) k = getW S k :=
  getW_eq_of_branch_eq ((branch_arxLayer hnb S _).trans (if_neg (by omega)))

/-- Settles O15: a turn of the loop reads and writes its own branch only. -/
theorem arxLayerBranches : Obligations.ArxLayerBranches :=
  fun _ S hnb => ⟨fun j hj => (branch_arxLayer hnb S j).trans (if_pos hj),
    fun _ hk => getW_arxLayer_beyond hnb hk S⟩

theorem arxLayer_injective {nb : Nat} (hnb : nb ≤ 8) : Function.Injective (arxLayer nb) := by
  refine fun S T h => eq_of_sameBranches fun j _ => ?_
  have hbranch : branch (arxLayer nb S) j = branch (arxLayer nb T) j := by rw [h]
  rw [branch_arxLayer hnb, branch_arxLayer hnb] at hbranch
  split at hbranch
  · exact arxBox_injective j hbranch
  · exact hbranch

theorem arxLayer_sameBranches {nb n : Nat} (hnb : nb ≤ 8) {S T : Vector Word 16} (h : SameBranches n S T) :
    SameBranches n (arxLayer nb S) (arxLayer nb T) := by
  intro j hj
  rw [branch_arxLayer hnb, branch_arxLayer hnb, h j hj]

/-! The linear layer. -/

/-- `tx` (`side = 0`) and `ty` (`side = 1`) of R136: ℓ of the XOR of the left branches' words. -/
def leftEll (h side : Nat) (old : Vector Word 16) : Word :=
  ell (xorAll ((List.range h).map fun j => getW old (2 * j + side)))

/-- The new left branch `k` (R136). -/
def newLeft (h : Nat) (old : Vector Word 16) (k : Nat) : Word × Word :=
  let m := (k + 1) % h
  (getW old (2 * (h + m)) ^^^ getW old (2 * m) ^^^ leftEll h 1 old,
    getW old (2 * (h + m) + 1) ^^^ getW old (2 * m + 1) ^^^ leftEll h 0 old)

/-- The first `n` branches of the linear layer's loop. -/
def linearLoop (h : Nat) (old : Vector Word 16) (n : Nat) : Vector Word 16 :=
  (List.range n).foldl (linearBranch h (leftEll h 0 old) (leftEll h 1 old) old) old

theorem linearLayer_eq_linearLoop (nb : Nat) (old : Vector Word 16) :
    linearLayer nb old = linearLoop (nb / 2) old (nb / 2) := rfl

theorem linearLoop_succ (h : Nat) (old : Vector Word 16) (n : Nat) :
    linearLoop h old (n + 1) =
      setBranch (setBranch (linearLoop h old n) n (newLeft h old n)) (h + n) (branch old n) := by
  rw [linearLoop, List.range_succ, List.foldl_append]
  rfl

theorem branch_linearLoop {h n : Nat} (hn : n ≤ h) (hh : h ≤ 4) (old : Vector Word 16) (j : Nat) :
    branch (linearLoop h old n) j =
      if j < n then newLeft h old j else if h ≤ j ∧ j < h + n then branch old (j - h) else branch old j := by
  induction n with
  | zero => rw [if_neg (by omega), if_neg (by omega)]; rfl
  | succ n ih =>
    replace ih := ih (by omega)
    rw [linearLoop_succ]
    rcases eq_or_ne (h + n) j with rfl | hright
    · rw [branch_setBranch_same _ _ (by omega), if_neg (by omega), if_pos (by omega), Nat.add_sub_cancel_left]
    rw [branch_setBranch_other _ _ hright]
    rcases eq_or_ne n j with rfl | hleft
    · rw [branch_setBranch_same _ _ (by omega), if_pos (by omega)]
    · rw [branch_setBranch_other _ _ hleft, ih]
      exact if_congr (by omega) rfl (if_congr (by omega) rfl rfl)

section
variable {nb : Nat} (hnb : nb ≤ 8) (old : Vector Word 16)
include hnb

theorem branch_linearLayer_left {k : Nat} (hk : k < nb / 2) :
    branch (linearLayer nb old) k = newLeft (nb / 2) old k := by
  rw [linearLayer_eq_linearLoop, branch_linearLoop le_rfl (by omega), if_pos hk]

theorem branch_linearLayer_right {k : Nat} (hk : k < nb / 2) :
    branch (linearLayer nb old) (nb / 2 + k) = branch old k := by
  rw [linearLayer_eq_linearLoop, branch_linearLoop le_rfl (by omega), if_neg (by omega), if_pos (by omega),
    Nat.add_sub_cancel_left]

theorem branch_linearLayer_beyond {j : Nat} (hj : 2 * (nb / 2) ≤ j) :
    branch (linearLayer nb old) j = branch old j := by
  rw [linearLayer_eq_linearLoop, branch_linearLoop le_rfl (by omega), if_neg (by omega), if_neg (by omega)]

theorem getW_linearLayer_beyond {k : Nat} (hk : 2 * nb ≤ k) : getW (linearLayer nb old) k = getW old k :=
  getW_eq_of_branch_eq (branch_linearLayer_beyond hnb old (by omega))

end

/-- Settles O16: the loop's branches `k` and `nb/2 + k`, word by word. -/
theorem linearLayerWords : Obligations.LinearLayerWords := by
  intro nb old hnb tx ty htx hty
  replace hnb : nb ≤ 8 := by omega
  have hx : leftEll (nb / 2) 0 old = tx := by rw [htx, leftEll, xorAll, List.foldl_map]; rfl
  have hy : leftEll (nb / 2) 1 old = ty := by rw [hty, leftEll, xorAll, List.foldl_map]
  refine ⟨fun k hk m hm => ?_, fun _ hk => getW_linearLayer_beyond hnb old hk⟩
  obtain ⟨hleftX, hleftY⟩ := Prod.mk.inj (branch_linearLayer_left hnb old hk)
  obtain ⟨hrightX, hrightY⟩ := Prod.mk.inj (branch_linearLayer_right hnb old hk)
  subst hm hx hy
  exact ⟨hleftX, hleftY, hrightX, hrightY⟩

/-- `tx` and `ty` are functions of the left branches. -/
theorem leftEll_congr {h side : Nat} {S T : Vector Word 16} (hside : side < 2) (heq : SameBranches h S T) :
    leftEll h side S = leftEll h side T := by
  unfold leftEll
  congr 2
  refine List.map_congr_left fun j hj => sameBranches_iff.1 heq _ ?_
  have := List.mem_range.1 hj
  omega

/-- Over the same left half a new left branch is a permutation of the right branch it reads. -/
theorem newLeft_eq_iff {h k : Nat} {S T : Vector Word 16} (hk : k < h) (hleft : SameBranches h S T) :
    newLeft h S k = newLeft h T k ↔ branch S (h + (k + 1) % h) = branch T (h + (k + 1) % h) := by
  have hm : branch S ((k + 1) % h) = branch T ((k + 1) % h) := hleft _ (Nat.mod_lt _ (by omega))
  obtain ⟨hmx, hmy⟩ := Prod.mk.inj hm
  simp only [newLeft, branch, Prod.mk.injEq, hmx, hmy, leftEll_congr (show 0 < 2 by decide) hleft,
    leftEll_congr (show 1 < 2 by decide) hleft, BitVec.xor_left_inj]

/-- Every right branch stands in some new left one. -/
theorem exists_right_eq {h j : Nat} (hge : h ≤ j) (hlt : j < 2 * h) : ∃ k < h, h + (k + 1) % h = j := by
  obtain ⟨m, rfl⟩ := Nat.exists_eq_add_of_le hge
  rcases m with _ | m
  · exact ⟨h - 1, by omega, by rw [Nat.sub_add_cancel (by omega), Nat.mod_self]⟩
  · exact ⟨m, by omega, by rw [Nat.mod_eq_of_lt (by omega)]⟩

/-- The new right half is the old left one; with it, the new left half gives the old right one. -/
theorem linearLayer_injective {nb : Nat} (hnb : nb ≤ 8) : Function.Injective (linearLayer nb) := by
  intro S T h
  have hleft : SameBranches (nb / 2) S T := by
    intro k hk
    rw [← branch_linearLayer_right hnb S hk, h, branch_linearLayer_right hnb T hk]
  refine eq_of_sameBranches fun j _ => ?_
  rcases Nat.lt_or_ge j (nb / 2) with hlt | hge
  · exact hleft j hlt
  rcases Nat.lt_or_ge j (2 * (nb / 2)) with hlt | hbeyond
  · obtain ⟨k, hk, rfl⟩ := exists_right_eq hge hlt
    rw [← newLeft_eq_iff hk hleft, ← branch_linearLayer_left hnb S hk, h, branch_linearLayer_left hnb T hk]
  · rw [← branch_linearLayer_beyond hnb S hbeyond, h, branch_linearLayer_beyond hnb T hbeyond]

theorem linearLayer_sameBranches {nb : Nat} (hnb : nb ≤ 8) {S T : Vector Word 16} (h : SameBranches nb S T) :
    SameBranches nb (linearLayer nb S) (linearLayer nb T) := by
  have hleft : SameBranches (nb / 2) S T := fun j hj => h j (by omega)
  intro j hj
  rcases Nat.lt_or_ge j (nb / 2) with hlt | hge
  · have hm : (j + 1) % (nb / 2) < nb / 2 := Nat.mod_lt _ (by omega)
    rw [branch_linearLayer_left hnb S hlt, branch_linearLayer_left hnb T hlt, newLeft_eq_iff hlt hleft]
    exact h _ (by omega)
  rcases Nat.lt_or_ge j (2 * (nb / 2)) with hlt | hbeyond
  · obtain ⟨k, rfl⟩ := Nat.exists_eq_add_of_le hge
    rw [branch_linearLayer_right hnb S (by omega), branch_linearLayer_right hnb T (by omega)]
    exact h k (by omega)
  · rw [branch_linearLayer_beyond hnb S hbeyond, branch_linearLayer_beyond hnb T hbeyond, h j hj]

end Sys2Proof.Proofs.Permutation
end

section
/-! PROOFS. Sparkle (40_permutation.md R130, R135) from its layers, and the commands NOP, CLEAR and PERM (R139 to
R141). -/

namespace Sys2Proof.Proofs.Permutation

open Sys2Proof.Machine Sys2Proof.Safety Sys2Proof.Proofs.Commands Sys2Proof.Proofs.Encoding

/-! Sparkle. -/

theorem sparkle_succ (nb n : Nat) (S : Vector Word 16) :
    sparkle nb (n + 1) S = sparkleStep nb n (sparkle nb n S) := by
  rw [sparkle, sparkleFrom_last, Nat.zero_add, sparkle]

theorem sparkle_injective {nb : Nat} (hnb : nb ≤ 8) (steps : Nat) : Function.Injective (sparkle nb steps) := by
  induction steps with
  | zero => exact Function.injective_id
  | succ n ih =>
    have hstep : Function.Injective (sparkleStep nb n) :=
      (linearLayer_injective hnb).comp ((arxLayer_injective hnb).comp (stepConstants_injective n))
    intro S T h
    rw [sparkle_succ, sparkle_succ] at h
    exact ih (hstep h)

/-- Settles O18: each layer can be undone. -/
theorem sparkleInjective : Obligations.SparkleInjective :=
  fun _ steps _ _ hnb h => sparkle_injective (by omega) steps h

theorem sparkleStep_beyond {nb k : Nat} (hnb2 : 2 ≤ nb) (hnb : nb ≤ 8) (hk : 2 * nb ≤ k) (i : Nat)
    (S : Vector Word 16) : getW (sparkleStep nb i S) k = getW S k := by
  rw [sparkleStep, getW_linearLayer_beyond hnb _ hk, getW_arxLayer_beyond hnb hk,
    getW_stepConstants_other i S (by omega) (by omega)]

/-- Sparkle writes no word beyond its branches. -/
theorem sparkle_beyond {nb k : Nat} (hnb2 : 2 ≤ nb) (hnb : nb ≤ 8) (hk : 2 * nb ≤ k) (steps : Nat)
    (S : Vector Word 16) : getW (sparkle nb steps S) k = getW S k :=
  sparkle_keeps (fun T => getW T k = getW S k)
    (fun i T hT => (sparkleStep_beyond hnb2 hnb hk i T).trans hT) steps S rfl

/-- Sparkle reads no branch beyond its own. -/
theorem sparkle_sameBranches {nb : Nat} (hnb : nb ≤ 8) (steps : Nat) {S T : Vector Word 16}
    (h : SameBranches nb S T) : SameBranches nb (sparkle nb steps S) (sparkle nb steps T) := by
  induction steps with
  | zero => exact h
  | succ n ih =>
    rw [sparkle_succ, sparkle_succ]
    exact linearLayer_sameBranches hnb (arxLayer_sameBranches hnb (stepConstants_sameBranches n ih))

/-- Settles O17: no layer writes or reads a word beyond its branches. -/
theorem sparkleSteps : Obligations.SparkleSteps := by
  intro nb n S hnb
  exact ⟨rfl, sparkle_succ nb n S, fun k hk => sparkle_beyond (by omega) (by omega) hk n S,
    fun T h => sameBranches_iff.1 (sparkle_sameBranches (by omega) n (sameBranches_iff.2 h))⟩

/-! The engine commands. -/

/-- A legal word with OP = 0 is the word 0: the encoder gives NOP no field. -/
theorem eq_zero_of_decode_opField_zero {w : Word} {i : Instr} (hop : opField w = 0) (h : decode w = .ok i) : w = 0 := by
  obtain ⟨hi, -⟩ := decode_eq_ok_iff.1 h
  rw [hop] at hi
  obtain rfl : Instr.nop = i := Option.some.inj hi
  obtain ⟨-, hw⟩ := encodeOfDecode w .nop h
  exact hw.symm

/-- Settles O19: the encoder gives NOP no other word. -/
theorem nopResult : Obligations.NopResult := by
  refine ⟨by decide, fun s => exec_performed rfl, fun w hop hne => ?_⟩
  cases h : decode w with
  | error e => exact ⟨e, rfl⟩
  | ok i => exact absurd (eq_zero_of_decode_opField_zero hop h) hne

/-- Settles O20: the four files are files of zeros. -/
theorem clearResult : Obligations.ClearResult :=
  fun _ => ⟨zeros 16, zeros 8, zeros 8, zeros 8, getW_zeros, fun k => ⟨getW_zeros k, getW_zeros k, getW_zeros k⟩,
    exec_performed rfl⟩

/-- The branch counts of PERM (30_encoding.md R103). -/
theorem branchCount_eq_some {nb : BitVec 2} {b : Nat} (hnb : nb ≠ 3) (hb : b = [4, 6, 8].getD nb.toNat 0) :
    branchCount nb = some b ∧ (b = 4 ∨ b = 6 ∨ b = 8) := by
  subst hb
  revert nb
  decide

/-- Settles O21: the words by `sparkleSteps`. -/
theorem permResult : Obligations.PermResult := by
  refine fun nb steps s => ⟨?refused, ?performed⟩
  case refused =>
    rintro rfl
    rfl
  case performed =>
    intro hnb b hb
    obtain ⟨hcount, hcases⟩ := branchCount_eq_some hnb hb
    obtain ⟨hzero, -, hbeyond, -⟩ := sparkleSteps b steps.toNat s.S hcases
    have hcheck : execCheck (.perm nb steps) s = .noError := by simp [execCheck, hcount]
    refine ⟨?_, ?_, hbeyond⟩
    · simpa [execEffect, hcount] using exec_performed hcheck
    · rintro rfl
      exact hzero

end Sys2Proof.Proofs.Permutation
end

section
/-! PROOFS. The Esch sponge word by word (41_hash.md R161 to R167): the constant, the injection branch by branch, the
digest's words, and the parameters of the two variants. -/

namespace Sys2Proof.Proofs.Hash

open Sys2Proof.Machine Sys2Proof.Safety Sys2Proof.Proofs.Permutation

/-! The Esch rows of 00_scope.md R8. -/

section
variable {V : Variant} (hV : V.isEsch = true)
include hV

theorem isEsch_cases : V = .esch256 ∨ V = .esch384 := by
  cases V <;> simp [Variant.isEsch] at hV ⊢

theorem esch_nb : V.nb = if V = .esch256 then 6 else 8 := by
  obtain rfl | rfl := isEsch_cases hV <;> rfl

theorem esch_slim : V.slim = if V = .esch256 then 7 else 8 := by
  obtain rfl | rfl := isEsch_cases hV <;> rfl

theorem esch_big : V.big = if V = .esch256 then 11 else 12 := by
  obtain rfl | rfl := isEsch_cases hV <;> rfl

theorem esch_squeezes : V.digestBytes / 16 = if V = .esch256 then 2 else 3 := by
  obtain rfl | rfl := isEsch_cases hV <;> rfl

theorem esch_nb_le : V.nb ≤ 8 := by
  obtain rfl | rfl := isEsch_cases hV <;> decide

end

/-! The last block: its length and its constant. -/

/-- LEN of HASH_LAST (60_exceptions.md R245): 0 is admitted for the empty message only. -/
theorem hashLenOk_of_le {phase : Phase} {len : BitVec 6} (hle : len.toNat ≤ 16)
    (hempty : len = 0 → phase = .hEmpty) : hashLenOk phase len = true := by
  rcases eq_or_ne len 0 with rfl | hne
  · rw [hempty rfl]
    rfl
  · have hpos : 1 ≤ len.toNat := Nat.pos_of_ne_zero fun h => hne (BitVec.eq_of_toNat_eq h)
    simp [hashLenOk, hpos, hle]

theorem marked_setW_xor (k : Nat) (c : Word) (S : Vector Word 16) : Marked k c S (setW S k (getW S k ^^^ c)) := by
  intro i hi
  rw [getW_setW _ _ _ _ hi]
  rcases eq_or_ne i k with rfl | hne
  · rw [if_pos rfl]
  · rw [if_neg hne.symm, if_neg hne]

theorem eschConst_eq (n : Nat) : eschConst (16 ≤ n) = if n < 16 then 0x01000000 else 0x02000000 := by
  rcases Nat.lt_or_ge n 16 with h | h
  · rw [decide_eq_false (by omega), if_pos h]
    rfl
  · rw [decide_eq_true h, if_neg (by omega)]
    rfl

/-- The constant of R163 in word `nb - 1`. -/
theorem markLastHash_marked (nb n : Nat) (S : Vector Word 16) :
    Marked (nb - 1) (if n < 16 then 0x01000000 else 0x02000000) S (markLastHash nb n S) := by
  rw [← eschConst_eq]
  exact marked_setW_xor _ _ S

/-! The injection (41_hash.md R162). -/

/-- A loop whose turn `j` rewrites branch `j` from its own words works on each of its branches alone. -/
theorem branch_foldl_range {body : Vector Word 16 → Nat → Vector Word 16} {box : Nat → Word × Word → Word × Word}
    (hbody : ∀ S j, body S j = setBranch S j (box j (branch S j))) {n : Nat} (hn : n ≤ 8) (S : Vector Word 16)
    (j : Nat) : branch ((List.range n).foldl body S) j = if j < n then box j (branch S j) else branch S j := by
  induction n with
  | zero => rfl
  | succ n ih =>
    replace ih := ih (by omega)
    rw [List.range_succ, List.foldl_append, List.foldl_cons, List.foldl_nil, hbody]
    rcases eq_or_ne n j with rfl | hj
    · rw [branch_setBranch_same _ _ (by omega), ih, if_neg (by omega), if_pos (by omega)]
    · rw [branch_setBranch_other _ _ hj, ih]
      exact if_congr (by omega) rfl rfl

/-- Branch `j` after the injection of the words `P`: the block's words reach the first two branches, `tx` and `ty`
every branch. -/
def injectBox (P : Nat → Word) (j : Nat) (p : Word × Word) : Word × Word :=
  (p.1 ^^^ (if j < 2 then P (2 * j) else 0) ^^^ ell (P 1 ^^^ P 3),
    p.2 ^^^ (if j < 2 then P (2 * j + 1) else 0) ^^^ ell (P 0 ^^^ P 2))

theorem injectBranch_eq_setBranch (P : List Word) (S : Vector Word 16) (j : Nat) :
    injectBranch P (ell (P.getD 0 0 ^^^ P.getD 2 0)) (ell (P.getD 1 0 ^^^ P.getD 3 0)) S j =
      setBranch S j (injectBox (fun i => P.getD i 0) j (branch S j)) := by
  rw [injectBranch, getW_setW_other _ _ _ _ (by omega)]
  rfl

theorem branch_inject {nb : Nat} (hnb : nb ≤ 8) (P : List Word) (S : Vector Word 16) (j : Nat) :
    branch (inject nb P S) j = if j < nb / 2 then injectBox (fun i => P.getD i 0) j (branch S j) else branch S j :=
  branch_foldl_range (injectBranch_eq_setBranch P) (by omega) S j

/-- The box reads the four words of the block only. -/
theorem injectBox_congr {P Q : Nat → Word} (h : ∀ i < 4, P i = Q i) (j : Nat) (p : Word × Word) :
    injectBox P j p = injectBox Q j p := by
  unfold injectBox
  rw [h 0 (by decide), h 1 (by decide), h 2 (by decide), h 3 (by decide)]
  split
  · next hj => rw [h (2 * j) (by omega), h (2 * j + 1) (by omega)]
  · rfl

/-- The model's injection is that of R162, for any `Q` whose first four words are those of the block. -/
theorem inject_injected {nb : Nat} (hnb : nb ≤ 8) {P : List Word} {Q : Nat → Word} (h : ∀ i < 4, P.getD i 0 = Q i)
    (S : Vector Word 16) : Injected nb Q S (inject nb P S) := by
  constructor
  · intro j hj
    exact Prod.mk.inj ((branch_inject hnb P S j).trans ((if_pos hj).trans (injectBox_congr h j _)))
  · intro i _ hle
    exact getW_eq_of_branch_eq ((branch_inject hnb P S _).trans (if_neg (by omega)))

/-! The digest's words. -/

/-- DOUT of a squeeze: the four rate words, then zeros (41_hash.md R167). -/
def rateOut (S : Vector Word 16) : Vector Word 8 := fill (zeros 8) 0 4 (getW S)

theorem getW_rateOut (S : Vector Word 16) (k : Nat) (hk : k < 4) : getW (rateOut S) k = getW S k := by
  rw [rateOut, getW_fill _ _ _ _ k (by omega), if_pos (by omega), Nat.sub_zero]

theorem getW_rateOut_beyond (S : Vector Word 16) (k : Nat) (hk : 4 ≤ k) : getW (rateOut S) k = 0 := by
  rcases Nat.lt_or_ge k 8 with h | h
  · rw [rateOut, getW_fill _ _ _ _ k h, if_neg (by omega), getW_zeros]
  · exact getW_out _ _ h

/-- S of a squeeze: `slim` steps on every one but the first (41_hash.md R167). -/
def squeezed (V : Variant) (count : BitVec 4) (S : Vector Word 16) : Vector Word 16 :=
  if 0 < count.toNat then sparkle V.nb V.slim S else S

theorem squeezed_first (V : Variant) {count : BitVec 4} (h : count = 0) (S : Vector Word 16) :
    squeezed V count S = S := by
  rw [h]
  rfl

theorem squeezed_later (V : Variant) {count : BitVec 4} (h : count ≠ 0) (S : Vector Word 16) :
    squeezed V count S = sparkle V.nb V.slim S :=
  if_pos (Nat.pos_of_ne_zero fun h0 => h (BitVec.eq_of_toNat_eq h0))

end Sys2Proof.Proofs.Hash
end

section
/-! PROOFS. Padding and the result of each hash command. -/

namespace Sys2Proof.Proofs.Hash

open Sys2Proof.Machine Sys2Proof.Safety Sys2Proof.Proofs.Bytes Sys2Proof.Proofs.Commands

theorem length_pad {b : List Byte} {rb : Nat} (h : b.length ≤ rb) : (pad b rb).length = rb := by
  unfold pad
  split
  · assumption
  · simp only [List.length_append, List.length_cons, List.length_replicate]
    omega

/-- Settles O23: the bytes by `pad_getD`. -/
theorem padBytes : Obligations.PadBytes :=
  ⟨by decide, fun b rb h => ⟨length_pad h, fun hfull => if_pos hfull, fun k hk => pad_getD b rb k hk⟩⟩

/-- Settles O24. -/
theorem hashInitResult : Obligations.HashInitResult :=
  fun _ hV => ⟨zeros 16, zeros 8, getW_zeros, getW_zeros, exec_performed (checkAll_eq_noError.2 ⟨hV, rfl, rfl⟩)⟩

/-- Settles O25. -/
theorem hashAbsorbResult : Obligations.HashAbsorbResult := by
  intro s hV hphase
  rw [← esch_nb hV, ← esch_slim hV]
  exact ⟨inject s.variant.nb (blockWords 4 s.din) s.S,
    inject_injected (esch_nb_le hV) (blockWords_getD 4 s.din) s.S,
    exec_performed (checkAll_passes hV hphase rfl)⟩

/-- Settles O26: the constant first, then the padded block of LEN bytes. -/
theorem hashLastResult : Obligations.HashLastResult := by
  intro len s hV hphase hlen hempty
  rw [← esch_nb hV, ← esch_big hV]
  have hblock : (blockBytes len.toNat s.din).length = len.toNat := length_blockBytes _ _ (by omega)
  let M := markLastHash s.variant.nb len.toNat s.S
  let P := wordsOf 4 (pad (blockBytes len.toNat s.din) 16)
  have hS : absorbLastHash s.variant (blockBytes len.toNat s.din) s.S =
      sparkle s.variant.nb s.variant.big (inject s.variant.nb P M) := by
    rw [absorbLastHash, hblock]
  refine ⟨M, inject s.variant.nb P M, fun i => P.getD i 0,
    markLastHash_marked _ _ s.S,
    wordsOf_pad_holdsBytes hblock (blockBytes_getD _ _),
    inject_injected (esch_nb_le hV) (fun _ _ => rfl) M, ?_⟩
  rw [← hS]
  exact exec_performed (checkAll_passes hV hphase (hashLenOk_of_le hlen hempty))

/-- Settles O27: what is put out is the rate of the S kept. -/
theorem hashSqueezeResult : Obligations.HashSqueezeResult := by
  intro s hV hphase
  rw [← esch_nb hV, ← esch_slim hV, ← esch_squeezes hV, ← hphase]
  let T := squeezed s.variant s.sqzcnt s.S
  exact ⟨T, rateOut T,
    fun h => squeezed_first _ h _, fun h => squeezed_later _ h _,
    getW_rateOut T, getW_rateOut_beyond T,
    exec_performed (checkAll_passes hV (by simp [hphase]) rfl)⟩

end Sys2Proof.Proofs.Hash
end

section
/-! PROOFS. The lengths of what the constructions answer (41_hash.md R168, 42_aead.md R190, R199), from the blocks a
string is split into. -/

namespace Sys2Proof.Proofs.Lengths

open Sys2Proof.Machine Sys2Proof.Proofs.Bytes Sys2Proof.Proofs.Aead

/-! The blocks of a string. -/

/-- The blocks put together again are the string. -/
theorem splitBlocks_flatten (rb fuel : Nat) (m : List Byte) :
    (splitBlocks rb fuel m).1.flatten ++ (splitBlocks rb fuel m).2 = m := by
  induction fuel generalizing m with
  | zero => rfl
  | succ fuel ih =>
    rw [splitBlocks]
    split
    · rw [List.flatten_cons, List.append_assoc, ih, List.take_append_drop]
    · rfl

theorem length_splitBlocks (rb fuel : Nat) (m : List Byte) :
    (splitBlocks rb fuel m).1.flatten.length + (splitBlocks rb fuel m).2.length = m.length := by
  rw [← List.length_append, splitBlocks_flatten]

theorem length_of_mem_splitBlocks {rb fuel : Nat} {m b : List Byte} (hb : b ∈ (splitBlocks rb fuel m).1) :
    b.length = rb := by
  induction fuel generalizing m with
  | zero => simp [splitBlocks] at hb
  | succ fuel ih =>
    rw [splitBlocks] at hb
    split at hb
    · next hlong =>
      obtain rfl | hb := List.mem_cons.1 hb
      · exact List.length_take_of_le hlong.le
      · exact ih hb
    · simp at hb

/-- With fuel for every byte the last block fits one block. -/
theorem length_splitBlocks_last_le {rb fuel : Nat} (hrb : 0 < rb) {m : List Byte} (hfuel : m.length ≤ fuel) :
    (splitBlocks rb fuel m).2.length ≤ rb := by
  induction fuel generalizing m with
  | zero => exact hfuel.trans (Nat.zero_le rb)
  | succ fuel ih =>
    rw [splitBlocks]
    split
    · exact ih (by rw [List.length_drop]; omega)
    · next hshort => exact Nat.le_of_not_lt hshort

/-! The digest. -/

theorem length_rateBytes (S : Vector Word 16) : (bytesOf (S.toList.take 4)).length = 16 := by
  simp [length_bytesOf]

/-- Each squeeze emits 16 bytes. -/
theorem length_squeezeMore (V : Variant) (count : Nat) (S : Vector Word 16) :
    (squeezeMore V count S).length = 16 * count := by
  induction count generalizing S with
  | zero => rfl
  | succ count ih =>
    rw [squeezeMore, List.length_append, length_rateBytes, ih]
    omega

theorem length_esch (V : Variant) (m : List Byte) : (esch V m).length = 16 + 16 * (V.digestBytes / 16 - 1) := by
  rw [esch, List.length_append, length_rateBytes, length_squeezeMore]

/-! Ciphertext and tag. -/

section
variable {V : Variant} (hV : V.isSchwaemm = true)
include hV

/-- Interior blocks of at most the rate are answered byte for byte, in either direction. -/
theorem length_schwaemmBlocks (dir : Direction) {blocks : List (List Byte)}
    (hblocks : ∀ b ∈ blocks, b.length ≤ 4 * V.R) (S : Vector Word 16) :
    (schwaemmBlocks V dir blocks S).1.length = blocks.flatten.length := by
  obtain ⟨hR, -⟩ := isSchwaemm_sizes hV
  induction blocks generalizing S with
  | nil => rfl
  | cons b rest ih =>
    obtain ⟨hb, hrest⟩ := List.forall_mem_cons.1 hblocks
    rw [schwaemmBlocks, List.length_append, length_dataOut S (by omega) hb, ih hrest, List.flatten_cons,
      List.length_append]

/-- The output of the data is as long as the data, in either direction. -/
theorem length_schwaemmData (dir : Direction) (D : List Byte) (S : Vector Word 16) :
    (schwaemmData V dir D S).1.length = D.length := by
  obtain ⟨hR, -⟩ := isSchwaemm_sizes hV
  have hrate : 0 < V.RB := by obtain rfl | rfl | rfl := isSchwaemm_cases hV <;> decide
  unfold schwaemmData
  split
  · next hempty => rw [hempty]
  · have hinterior : ∀ b ∈ (splitBlocks V.RB D.length D).1, b.length ≤ 4 * V.R :=
      fun b hb => (length_of_mem_splitBlocks hb).le
    have hlast : (splitBlocks V.RB D.length D).2.length ≤ 4 * V.R := length_splitBlocks_last_le hrate le_rfl
    rw [List.length_append, length_schwaemmBlocks hV dir hinterior, length_dataOut _ (by omega) hlast,
      length_splitBlocks]

end

theorem length_schwaemmTag (V : Variant) (K : List Byte) (S : Vector Word 16) :
    (schwaemmTag V K S).length = 4 * V.CW := by
  rw [schwaemmTag, length_bytesOf, List.length_map, List.length_range]

/-- Settles O39: block by block for the ciphertext, squeeze by squeeze for the digest. -/
theorem outputLengths : Obligations.OutputLengths :=
  ⟨fun _ _ _ _ _ hV => ⟨length_schwaemmData hV _ _ _, length_schwaemmTag _ _ _⟩,
    fun m => ⟨length_esch .esch256 m, length_esch .esch384 m⟩⟩

end Sys2Proof.Proofs.Lengths
end

section
/-! PROOFS. Decryption undoes encryption (42_aead.md R202, R214): on a block, as the engine's commands, and on byte
strings of every length. -/

namespace Sys2Proof.Proofs.RoundTrip

open Sys2Proof.Machine Sys2Proof.Safety Sys2Proof.Proofs.Bytes Sys2Proof.Proofs.Commands Sys2Proof.Proofs.Aead
  Sys2Proof.Proofs.OperandUse Sys2Proof.Proofs.Lengths

/-! One block. -/

/-- Byte strings of one length with the same bytes are the same string. -/
theorem bytes_ext {b c : List Byte} (hlen : b.length = c.length) (h : ∀ k < b.length, b.getD k 0 = c.getD k 0) :
    b = c := by
  have htake : b.take b.length = c.take b.length := take_congr hlen h
  rwa [List.take_length, hlen, List.take_length] at htake

/-- The rate XORed twice into a block that fits it gives the block back. -/
theorem dataOut_dataOut {V : Variant} (S : Vector Word 16) {b : List Byte} (hR : V.R ≤ 16)
    (hb : b.length ≤ 4 * V.R) : dataOut V S (dataOut V S b) = b := by
  have hlen : (dataOut V S b).length = b.length := length_dataOut S hR hb
  have hlen2 : (dataOut V S (dataOut V S b)).length = b.length := (length_dataOut S hR (by omega)).trans hlen
  refine bytes_ext hlen2 fun k hk => ?_
  rw [dataOut_getD S hR (by omega) (by omega), dataOut_getD S hR hb (by omega), xor_cancel_left]

/-- The rate XORed into what an interior block put out gives the words of the block. -/
theorem dataWords_doutOfWords_dataWords {V : Variant} (hR : V.R ≤ 8) (S : Vector Word 16) (din : Vector Word 8) :
    dataWords V S (doutOfWords (dataWords V S din)) = blockWords V.R din := by
  apply List.ext_getElem (by simp [dataWords, blockWords, hR])
  intro k hk hk'
  replace hk : k < V.R := by simpa [dataWords] using hk
  rw [← List.getD_eq_getElem _ 0, ← List.getD_eq_getElem _ 0, dataWords_getD _ _ _ _ hk,
    getW_doutOfWords_dataWords hR _ _ _ hk, xor_cancel_left, blockWords_getD _ _ _ hk]

/-- DOUT with a full block in it: its words, zero beyond them. -/
theorem getW_doutOfWords_blockWords (r : Nat) (din : Vector Word 8) {k : Nat} (hk : k < 8) :
    getW (doutOfWords (blockWords r din)) k = if k < r then getW din k else 0 := by
  rw [getW_doutOfWords _ _ hk]
  split
  · next hin => exact blockWords_getD _ _ _ hin
  · next hout => exact List.getD_eq_default _ _ (by rw [blockWords, List.length_take]; omega)

/-- A string put out in DOUT is the block of its length that a later command takes. -/
theorem blockBytes_doutOf {out : List Byte} {n : Nat} (hout : out.length = n) (hn : n ≤ 32) :
    blockBytes n (doutOf out) = out := by
  have hlen : (blockBytes n (doutOf out)).length = n := length_blockBytes _ _ hn
  refine bytes_ext (hlen.trans hout.symm) fun k hk => ?_
  rw [blockBytes_getD _ _ _ (by omega), fileByte_doutOf _ _ (by omega)]

/-- DOUT with the block of `n` bytes of DIN in it: its bytes, zero beyond them. -/
theorem fileByte_doutOf_blockBytes {n : Nat} (hn : n ≤ 32) (din : Vector Word 8) {k : Nat} (hk : k < 32) :
    fileByte (doutOf (blockBytes n din)) k = if k < n then fileByte din k else 0 := by
  rw [fileByte_doutOf _ _ hk]
  split
  · next hin => exact blockBytes_getD _ _ _ hin
  · next hout => exact List.getD_eq_default _ _ (by rw [length_blockBytes _ _ hn]; omega)

/-! The commands. -/

/-- What a command answers whose check passes. -/
theorem exec_next_performed {i : Instr} {s t : State} (h : exec i s = .next t) (hcheck : execCheck i s = .noError) :
    t = completed (execEffect i s) :=
  Host.Outcome.next.inj (h.symm.trans (exec_performed hcheck))

/-- AEAD_DEC on the output of AEAD_ENC recovers the plaintext and the S of the encryption. -/
theorem aeadDecEffect_mirrors {s : State} (hR : s.variant.R ≤ 8) (q : Phase) :
    (aeadDecEffect { s with din := (aeadEncEffect s).dout, phase := q }).S = (aeadEncEffect s).S ∧
      (aeadDecEffect { s with din := (aeadEncEffect s).dout, phase := q }).dout =
        doutOfWords (blockWords s.variant.R s.din) := by
  simp only [aeadDecEffect, aeadEncEffect, dataWords_doutOfWords_dataWords hR, and_self]

/-- AEAD_DEC_LAST on the output of AEAD_ENC_LAST recovers the plaintext and the S of the encryption. -/
theorem aeadDecLastEffect_mirrors {len : BitVec 6} {s : State} (hR : s.variant.R ≤ 8)
    (hlen : len.toNat ≤ 4 * s.variant.R) (q : Phase) :
    (aeadDecLastEffect len { s with din := (aeadEncLastEffect len s).dout, phase := q }).S =
        (aeadEncLastEffect len s).S ∧
      (aeadDecLastEffect len { s with din := (aeadEncLastEffect len s).dout, phase := q }).dout =
        doutOf (blockBytes len.toNat s.din) := by
  have hblock : (blockBytes len.toNat s.din).length = len.toNat := length_blockBytes _ _ (by omega)
  have hplain (T : Vector Word 16) :
      dataOut s.variant T (blockBytes len.toNat (doutOf (dataOut s.variant T (blockBytes len.toNat s.din)))) =
        blockBytes len.toNat s.din := by
    have hout : (dataOut s.variant T (blockBytes len.toNat s.din)).length = len.toNat :=
      (length_dataOut T (by omega) (by omega)).trans hblock
    rw [blockBytes_doutOf hout (by omega), dataOut_dataOut T (by omega) (by omega)]
  simp only [aeadDecLastEffect, aeadEncLastEffect, hplain, and_self]

/-- Settles O37: the rate XORed twice is the plaintext, which both commands absorb. -/
theorem decryptionMirrorsEncryption : Obligations.DecryptionMirrorsEncryption := by
  refine ⟨?interior, ?last⟩
  case interior =>
    intro s t u q hV hphase hq henc hdec
    obtain ⟨hR, -⟩ := isSchwaemm_sizes hV
    obtain rfl := exec_next_performed henc (checkAll_passes hV hphase rfl)
    obtain rfl := exec_next_performed hdec (checkAll_passes hV hq rfl)
    obtain ⟨hS, hdout⟩ := aeadDecEffect_mirrors hR q
    refine ⟨hS, fun k hk => ?_⟩
    rw [← getW_doutOfWords_blockWords _ _ hk, ← hdout]
    rfl
  case last =>
    intro len s t u q hV hphase hq hlen1 hlen henc hdec
    obtain ⟨hR, -⟩ := isSchwaemm_sizes hV
    have hlenOk : aeadLenOk s.variant len = true := aeadLenOk_of_le hlen1 hlen
    obtain rfl := exec_next_performed henc (checkAll_passes hV hphase hlenOk)
    obtain rfl := exec_next_performed hdec (checkAll_passes hV hq hlenOk)
    replace hlen : len.toNat ≤ 4 * s.variant.R := hlen
    obtain ⟨hS, hdout⟩ := aeadDecLastEffect_mirrors hR hlen q
    refine ⟨hS, fun k hk => ?_⟩
    rw [← fileByte_doutOf_blockBytes (by omega) _ hk, ← hdout]
    rfl

/-! Byte strings: the blocks of the ciphertext are the encrypted blocks of the plaintext. -/

/-- Blocks of `rb` bytes before a last one that is not empty and fits a block. -/
structure Blocks (rb : Nat) (interior : List (List Byte)) (last : List Byte) : Prop where
  interior_length : ∀ b ∈ interior, b.length = rb
  last_pos : 0 < last.length
  last_le : last.length ≤ rb

/-- The interior blocks leave a last one that is not empty, if the string is not. -/
theorem splitBlocks_last_pos {rb fuel : Nat} {m : List Byte} (hm : 0 < m.length) :
    0 < (splitBlocks rb fuel m).2.length := by
  induction fuel generalizing m with
  | zero => exact hm
  | succ fuel ih =>
    rw [splitBlocks]
    split
    · next hlong => exact ih (by rw [List.length_drop]; omega)
    · exact hm

/-- A string that is not empty is cut into blocks. -/
theorem exists_blocks {rb : Nat} (hrb : 0 < rb) {m : List Byte} (hm : m ≠ []) :
    ∃ interior last, Blocks rb interior last ∧ interior.flatten ++ last = m :=
  ⟨_, _, ⟨fun _ => length_of_mem_splitBlocks, splitBlocks_last_pos (List.length_pos_of_ne_nil hm),
    length_splitBlocks_last_le hrb le_rfl⟩, splitBlocks_flatten rb m.length m⟩

/-- There is one way only to cut a string into blocks. -/
theorem splitBlocks_of_blocks {rb fuel : Nat} {interior : List (List Byte)} {last : List Byte}
    (h : Blocks rb interior last) (hfuel : (interior.flatten ++ last).length ≤ fuel) :
    splitBlocks rb fuel (interior.flatten ++ last) = (interior, last) := by
  obtain ⟨hinterior, hpos, hle⟩ := h
  obtain ⟨fuel, rfl⟩ : ∃ n, fuel = n + 1 := ⟨fuel - 1, by rw [List.length_append] at hfuel; omega⟩
  induction interior generalizing fuel with
  | nil => exact if_neg (Nat.not_lt.2 hle)
  | cons b rest ih =>
    obtain ⟨hb, hrest⟩ := List.forall_mem_cons.1 hinterior
    rw [List.flatten_cons, List.append_assoc] at hfuel ⊢
    have hpos' : 0 < (rest.flatten ++ last).length := by rw [List.length_append]; omega
    rw [List.length_append] at hfuel
    obtain ⟨fuel, rfl⟩ : ∃ n, fuel = n + 1 := ⟨fuel - 1, by omega⟩
    rw [splitBlocks, if_pos (by rw [List.length_append]; omega), List.take_left' hb, List.drop_left' hb,
      ih hrest fuel (by omega)]

/-- The data of the construction, cut into blocks (42_aead.md R214). -/
theorem schwaemmData_of_blocks {V : Variant} (dir : Direction) {interior : List (List Byte)} {last : List Byte}
    (h : Blocks V.RB interior last) (S : Vector Word 16) :
    schwaemmData V dir (interior.flatten ++ last) S =
      (let r := schwaemmBlocks V dir interior S
       let T := markLastData V last.length r.2
       let out := dataOut V T last
       (r.1 ++ out, absorbLastBlock V (plaintextOf dir last out) T)) := by
  have hne : interior.flatten ++ last ≠ [] := by
    simp [List.ne_nil_of_length_pos h.last_pos]
  rw [schwaemmData, if_neg hne, splitBlocks_of_blocks h le_rfl]

/-- The ciphertext blocks of interior plaintext blocks. -/
def cipherBlocks (V : Variant) : List (List Byte) → Vector Word 16 → List (List Byte)
  | [], _ => []
  | b :: rest, S => dataOut V S b :: cipherBlocks V rest (absorbBlock V (wordsOf V.R b) S)

/-- Encryption puts the ciphertext blocks out. -/
theorem schwaemmBlocks_encrypt (V : Variant) (interior : List (List Byte)) (S : Vector Word 16) :
    (schwaemmBlocks V .encrypt interior S).1 = (cipherBlocks V interior S).flatten := by
  induction interior generalizing S with
  | nil => rfl
  | cons b rest ih => rw [schwaemmBlocks, cipherBlocks, List.flatten_cons, ← ih]; rfl

section
variable {V : Variant} (hV : V.isSchwaemm = true)
include hV

/-- A ciphertext block is as long as its plaintext block. -/
theorem length_of_mem_cipherBlocks {interior : List (List Byte)} (hinterior : ∀ b ∈ interior, b.length = V.RB)
    {S : Vector Word 16} {c : List Byte} (hc : c ∈ cipherBlocks V interior S) : c.length = V.RB := by
  obtain ⟨hR, -⟩ := isSchwaemm_sizes hV
  induction interior generalizing S with
  | nil => cases hc
  | cons b rest ih =>
    obtain ⟨hb, hrest⟩ := List.forall_mem_cons.1 hinterior
    obtain rfl | hc := List.mem_cons.1 hc
    · exact (length_dataOut S (by omega) hb.le).trans hb
    · exact ih hrest hc

/-- Decrypting the ciphertext blocks gives the plaintext blocks and the S of the encryption. -/
theorem schwaemmBlocks_decrypt {interior : List (List Byte)} (hinterior : ∀ b ∈ interior, b.length = V.RB)
    (S : Vector Word 16) :
    schwaemmBlocks V .decrypt (cipherBlocks V interior S) S =
      (interior.flatten, (schwaemmBlocks V .encrypt interior S).2) := by
  obtain ⟨hR, -⟩ := isSchwaemm_sizes hV
  induction interior generalizing S with
  | nil => rfl
  | cons b rest ih =>
    obtain ⟨hb, hrest⟩ := List.forall_mem_cons.1 hinterior
    have hplain : dataOut V S (dataOut V S b) = b := dataOut_dataOut S (by omega) hb.le
    simp only [cipherBlocks, schwaemmBlocks, plaintextOf, hplain, ih hrest, List.flatten_cons]

/-- Decrypting the encrypted data from the same S gives the data and the S of the encryption. -/
theorem schwaemmData_decrypt_encrypt (M : List Byte) (S : Vector Word 16) :
    schwaemmData V .decrypt (schwaemmData V .encrypt M S).1 S = (M, (schwaemmData V .encrypt M S).2) := by
  obtain ⟨hR, -⟩ := isSchwaemm_sizes hV
  have hRB : 0 < V.RB := by obtain rfl | rfl | rfl := isSchwaemm_cases hV <;> decide
  by_cases hM : M = []
  · simp [schwaemmData, hM]
  obtain ⟨interior, last, hblocks, rfl⟩ := exists_blocks hRB hM
  obtain ⟨T, hT⟩ : ∃ T, markLastData V last.length (schwaemmBlocks V .encrypt interior S).2 = T := ⟨_, rfl⟩
  have hout : (dataOut V T last).length = last.length := length_dataOut T (by omega) hblocks.last_le
  have hcipher : Blocks V.RB (cipherBlocks V interior S) (dataOut V T last) :=
    ⟨fun _ => length_of_mem_cipherBlocks hV hblocks.interior_length, hout ▸ hblocks.last_pos,
      hout ▸ hblocks.last_le⟩
  have hplain : dataOut V T (dataOut V T last) = last := dataOut_dataOut T (by omega) hblocks.last_le
  have henc : schwaemmData V .encrypt (interior.flatten ++ last) S =
      ((cipherBlocks V interior S).flatten ++ dataOut V T last, absorbLastBlock V last T) := by
    simp only [schwaemmData_of_blocks .encrypt hblocks, schwaemmBlocks_encrypt, hT, plaintextOf]
  have hdec : schwaemmData V .decrypt ((cipherBlocks V interior S).flatten ++ dataOut V T last) S =
      (interior.flatten ++ last, absorbLastBlock V last T) := by
    simp only [schwaemmData_of_blocks .decrypt hcipher, schwaemmBlocks_decrypt hV hblocks.interior_length, hout, hT,
      hplain, plaintextOf]
  rw [henc, hdec]

end

/-- Settles O38: the same S gives the same tag. -/
theorem schwaemmRoundTrip : Obligations.SchwaemmRoundTrip := by
  intro V K N A M hV
  rw [schwaemmDec, schwaemmEnc, schwaemmData_decrypt_encrypt hV, beq_self_eq_true]

end Sys2Proof.Proofs.RoundTrip
end

section
/-! PROOFS. How a command ends (60_exceptions.md R242 to R247): the check of a command in the terms of the tables, the code
it is refused with, and the phase where it is performed. -/

namespace Sys2Proof.Proofs.CommandEnds

open Sys2Proof.Machine Sys2Proof.Safety Sys2Proof.Proofs.Commands Sys2Proof.Proofs.Frame Sys2Proof.Proofs.Checks
  Sys2Proof.Proofs.ErrorStatus Sys2Proof.Proofs.Steps Sys2Proof.Proofs.Encoding

/-! The check of a command. -/

/-- LenOK of HASH_LAST (60_exceptions.md R245). -/
theorem hashLenOk_eq_lenAdmits (len : BitVec 6) (V : Variant) (phase : Phase) :
    hashLenOk phase len = lenAdmits (.hashLast len) V phase := by
  simp [hashLenOk, lenAdmits, beq_eq_decide, ← BitVec.toNat_inj]

/-- Exactly the NB codes other than 3 have a branch count (30_encoding.md R103). -/
theorem isSome_branchCount_eq_wf (nb : BitVec 2) (steps : BitVec 5) :
    (branchCount nb).isSome = (Instr.perm nb steps).wf := by
  rw [Instr.wf]
  revert nb
  decide

/-- The check of a command is ILLEGAL for a reserved operand, and else the three tables of 60_exceptions.md R243 to R245 in
their order. -/
theorem execCheck_eq (i : Instr) (s : State) :
    execCheck i s =
      if i.wf then
        checkAll (variantAdmits i s.variant) (phaseAdmits i s.phase) (lenAdmits i s.variant s.phase)
      else .illegal := by
  cases i with
  | nop | clear => rfl
  | perm nb steps =>
    rw [execCheck, isSome_branchCount_eq_wf nb steps]
    rfl
  | hashLast len =>
    rw [execCheck, hashLenOk_eq_lenAdmits len s.variant]
    simp [Instr.wf, variantAdmits, hashCmd, aeadCmd, phaseAdmits, admittedPhases]
  | hashInit | hashAbsorb | hashSqueeze | aeadInit | aeadAd | aeadEnc | aeadDec | aeadTag | aeadVerify =>
    simp [execCheck, Instr.wf, variantAdmits, hashCmd, aeadCmd, phaseAdmits, admittedPhases, lenAdmits]
  | aeadAdLast len | aeadEncLast len | aeadDecLast len =>
    simp [execCheck, Instr.wf, variantAdmits, hashCmd, aeadCmd, phaseAdmits, admittedPhases, lenAdmits, aeadLenOk]

/-- A command is refused by no check exactly where it is admitted. -/
theorem execCheck_eq_noError_iff {i : Instr} {s : State} : execCheck i s = .noError ↔ admitted i s = true := by
  rw [execCheck_eq]
  cases hwf : i.wf <;> simp [admitted, hwf, checkAll_eq_noError, and_assoc]

/-- A command with a reserved operand, PERM with NB = 3, passes all three tables. -/
theorem admits_of_not_wf {i : Instr} (hwf : i.wf = false) (V : Variant) (phase : Phase) :
    variantAdmits i V = true ∧ phaseAdmits i phase = true ∧ lenAdmits i V phase = true := by
  cases i with
  | perm nb steps => exact ⟨rfl, rfl, rfl⟩
  | _ => cases hwf

/-! Refused commands. -/

/-- A command whose check fails ends with its code and changes nothing else (60_exceptions.md R246). -/
theorem exec_refused {i : Instr} {s : State} (h : execCheck i s ≠ .noError) :
    exec i s = .next (refusedWith (execCheck i s) s) := by
  rw [exec_eq, performCmd_refused h]
  rfl

/-- Settles O8. -/
theorem refusalCodes : Obligations.RefusalCodes := by
  intro i s
  cases hwf : i.wf with
  | false =>
    obtain ⟨hvariant, hphase, hlen⟩ := admits_of_not_wf hwf s.variant s.phase
    simp [hvariant, hphase, hlen]
  | true =>
    have hcode {c : ErrCode} (hne : c ≠ .noError)
        (h : checkAll (variantAdmits i s.variant) (phaseAdmits i s.phase) (lenAdmits i s.variant s.phase) = c) :
        exec i s = .next (refusedWith c s) := by
      have hcheck : execCheck i s = c := by rw [execCheck_eq, if_pos hwf, h]
      exact hcheck ▸ exec_refused (hcheck ▸ hne)
    refine ⟨fun hvariant => ?_, fun hvariant hphase => ?_, fun hvariant hphase hlen => ?_⟩
    · exact hcode (by decide) (by simp [checkAll, hvariant])
    · exact hcode (by decide) (by simp [checkAll, hvariant, hphase])
    · exact hcode (by decide) (by simp [checkAll, hvariant, hphase, hlen])

/-- Settles O11: the two runs make the same check. -/
theorem refusalIndependentOfData : Obligations.RefusalIndependentOfData := by
  intro i s s' t t' hvariant hphase herr herr' hcode h h'
  have hcheck : execCheck i s = execCheck i s' := by rw [execCheck_eq, execCheck_eq, hvariant, hphase]
  obtain ⟨hfail, hpass⟩ := exec_err h
  obtain ⟨hfail', hpass'⟩ := exec_err h'
  rw [← hcheck] at hfail' hpass'
  by_cases hok : execCheck i s = .noError
  · obtain ⟨hterr, htcode⟩ := hpass hok
    obtain ⟨hterr', htcode'⟩ := hpass' hok
    exact ⟨by rw [hterr, hterr', herr, herr'], by rw [htcode, htcode', hcode]⟩
  · obtain ⟨hterr, htcode⟩ := hfail hok
    obtain ⟨hterr', htcode'⟩ := hfail' hok
    exact ⟨hterr.trans hterr'.symm, htcode.trans htcode'.symm⟩

/-! Performed commands. -/

/-- Settles O9. -/
theorem phaseTable : Obligations.PhaseTable := by
  intro i s hadmitted
  have hcheck := execCheck_eq_noError_iff.2 hadmitted
  exact ⟨_, exec_performed hcheck, execEffect_phase hcheck, execEffect_err i s, execEffect_errcode i s, rfl, rfl, rfl⟩

/-- Settles O7: Check(w) is ILLEGAL where decoding fails, and else the check of the decoded command. -/
theorem checkOrder : Obligations.CheckOrder := by
  intro s w hbusy hrst hpending
  cases hdecode : decode w with
  | error e =>
    rw [checkWord_of_decode_error hdecode]
    exact ⟨fun _ => engineTurn_illegal hbusy hrst hpending hdecode, nofun⟩
  | ok i =>
    rw [checkWord_of_decode_ok hdecode, engineTurn_decoded hrst hbusy hpending hdecode]
    refine ⟨exec_refused, fun hpass => ?_⟩
    have hadmitted := execCheck_eq_noError_iff.1 hpass
    obtain ⟨t, hexec, -, hstatus⟩ := phaseTable i s hadmitted
    exact ⟨i, t, rfl, hadmitted, hexec, hstatus⟩

end Sys2Proof.Proofs.CommandEnds
end

section
/-! PROOFS. A host that keeps its duties (70_reset_and_hazards.md R283, R286, R288): what the discipline says of its next
statement, and so which fields its move keeps. -/

namespace Sys2Proof.Proofs.Discipline

open Sys2Proof.Machine Sys2Proof.Safety Sys2Proof.Proofs.Window Sys2Proof.Proofs.HostMoves

/-! The discipline, by the next statement. -/

/-- A disciplined write is not dropped (R286) and disturbs no operation (R288). -/
theorem disciplined_write {off width : Nat} {v : Word} {rest : List HostStmt} {s : State}
    (hdisc : hostDisciplined s = true) (hhost : s.host = .write off width v :: rest) :
    (s.busy = true → droppedWhileBusy (regAt off) = false) ∧ disturbsOperation (regAt off) v s.phase = false := by
  simpa [hostDisciplined, hhost, or_iff_not_imp_left] using hdisc

/-- A disciplined read is not one of "any value" (R283). -/
theorem disciplined_read {off width name : Nat} {rest : List HostStmt} {s : State}
    (hdisc : hostDisciplined s = true) (hhost : s.host = .read off width name :: rest) (hbusy : s.busy = true) :
    freeWhileBusy (regAt off) = false := by
  simp only [hostDisciplined, hhost, hbusy] at hdisc
  cases hreg : regAt off with
  | dout i | state i => simp [hreg] at hdisc
  | _ => rfl

/-! Which writes disturb an operation, by offset (20_memory.md R72). -/

theorem disturbsOperation_stateWindow {r : Reg} {off : Nat} (h : StandsAt r off) (hoff : 0x080 ≤ off ∧ off < 0x0C0)
    (v : Word) (phase : Phase) : disturbsOperation r v phase = midOperation phase := by
  cases r with
  | state i => rfl
  | _ =>
    simp only [StandsAt] at h
    omega

theorem disturbsOperation_keyWindow {r : Reg} {off : Nat} (h : StandsAt r off) (hoff : 0x020 ≤ off ∧ off < 0x040)
    (v : Word) (phase : Phase) : disturbsOperation r v phase = keyHeld phase := by
  cases r with
  | key i => rfl
  | _ =>
    simp only [StandsAt] at h
    omega

theorem isPermWord_of_decode {w : Word} {nb : BitVec 2} {steps : BitVec 5} (h : decode w = .ok (.perm nb steps)) :
    isPermWord w = true := by
  simp [isPermWord, h, Instr.usesNbSteps]

/-! What a disciplined move keeps. -/

/-- If a read that is not one of "any value" answers a next state, its continuation does, on the state it read from. -/
theorem hostRead_next_defined {off width : Nat} {k : Word → State → Out} {s t : State}
    (h : hostRead off width k s = .next t) (hrst : s.rst = false)
    (hfree : s.busy = true → freeWhileBusy (regAt off) = false) : ∃ v, k v s = .next t := by
  obtain ⟨-, -, -, hk⟩ := window_next h
  rw [readReg_defined hrst hfree] at hk
  exact ⟨_, hk⟩

section

variable {s t : State} (hdisc : hostDisciplined s = true) (h : hostTurn s = .next t)
include hdisc h

theorem hostTurn_draws (hrst : s.rst = false) : t.draws = s.draws := by
  obtain ⟨-, -, hkept | ⟨off, name, rest, hhost⟩ | ⟨rest, hhost⟩⟩ := hostTurn_own h
  · exact hkept
  · have hfree := disciplined_read hdisc hhost
    simp only [hostTurn, hhost] at h
    obtain ⟨v, hk⟩ := hostRead_next_defined h hrst hfree
    cases hk
    rfl
  · simp only [hostTurn, hhost] at h
    obtain ⟨v, hk⟩ := hostRead_next_defined h hrst fun _ => rfl
    split at hk <;> cases hk <;> rfl

theorem hostTurn_ovr (hovr : t.ovr = true) : s.ovr = true := by
  by_contra hclear
  obtain ⟨off, v, rest, hhost, ⟨-, hbusy, hoff⟩ | ⟨hcleared, -⟩⟩ := write_of_ovr_ne h fun heq => hclear (heq ▸ hovr)
  · have hdropped := (droppedWhileBusy_iff (standsAt_regAt off)).2 hoff
    rw [(disciplined_write hdisc hhost).1 hbusy] at hdropped
    cases hdropped
  · rw [hovr] at hcleared
    cases hcleared

theorem hostTurn_operation (hmid : midOperation s.phase = true) : operation t = operation s := by
  by_contra hne
  obtain ⟨v, rest, hhost⟩ := write_of_operation_ne h hne
  have hquiet : midOperation s.phase = false := (disciplined_write hdisc hhost).2
  rw [hmid] at hquiet
  cases hquiet

theorem hostTurn_S (hmid : midOperation s.phase = true) : t.S = s.S := by
  by_contra hne
  obtain ⟨off, v, rest, hhost, hoff⟩ := write_of_S_ne h hne
  have hquiet := (disciplined_write hdisc hhost).2
  rw [disturbsOperation_stateWindow (standsAt_regAt off) hoff, hmid] at hquiet
  cases hquiet

theorem hostTurn_key (hheld : keyHeld s.phase = true) : t.key = s.key := by
  by_contra hne
  obtain ⟨off, v, rest, hhost, hoff⟩ := write_of_key_ne h hne
  have hquiet := (disciplined_write hdisc hhost).2
  rw [disturbsOperation_keyWindow (standsAt_regAt off) hoff, hheld] at hquiet
  cases hquiet

/-- In the middle of an operation no PERM becomes pending. -/
theorem hostTurn_pending_not_perm (hmid : midOperation s.phase = true) {w : Word} (hne : t.pending ≠ s.pending)
    (hw : t.pending = some w) (nb : BitVec 2) (steps : BitVec 5) : decode w ≠ .ok (.perm nb steps) := by
  intro hperm
  obtain ⟨v, rest, hhost, -, hv, -⟩ := write_of_inFlight_ne h fun heq => hne (congrArg Prod.fst heq)
  obtain rfl : w = v := Option.some.inj (hw.symm.trans hv)
  have hquiet : (midOperation s.phase && isPermWord w) = false := (disciplined_write hdisc hhost).2
  rw [hmid, isPermWord_of_decode hperm] at hquiet
  cases hquiet

end

/-- Settles O54. -/
theorem disciplinedHost : Obligations.DisciplinedHost := by
  intro s t hrst hdisc h
  refine ⟨hostTurn_draws hdisc h hrst, hostTurn_ovr hdisc h, fun hmid => ?_, hostTurn_key hdisc h⟩
  obtain ⟨hphase, hsqzcnt, hvariant⟩ : t.phase = s.phase ∧ t.sqzcnt = s.sqzcnt ∧ t.variant = s.variant := by
    simpa only [operation, Prod.mk.injEq] using hostTurn_operation hdisc h hmid
  exact ⟨hphase, hsqzcnt, hvariant, hostTurn_S hdisc h hmid,
    fun w nb steps hne hw => hostTurn_pending_not_perm hdisc h hmid hne hw nb steps⟩

end Sys2Proof.Proofs.Discipline
end

section
/-! PROOFS. The input rst (70_reset_and_hazards.md R280, 10_state.md R50): what holds while it is asserted, and what its
two edges do. -/

namespace Sys2Proof.Proofs.ResetLine

open Sys2Proof.Machine Sys2Proof.Safety Sys2Proof.Proofs.Window Sys2Proof.Proofs.Registers

/-- While rst is asserted the engine does not move. -/
theorem engineTurn_rst {s : State} (hrst : s.rst = true) : engineTurn s = .next s := by
  simp [engineTurn, engineEnabled, hrst]

/-- While rst is asserted every read returns any value. -/
theorem readReg_rst {s : State} (hrst : s.rst = true) (r : Reg) : readReg r s = drawAny s :=
  if_pos hrst

/-- The input rst moves where its turn is the next one. -/
theorem step_rst {s : State} {level : Bool} {rest : List Turn} (hturns : s.turns = .rst level :: rest) :
    step s = .next (driveRst level { s with turns := rest }) := by
  simp only [step, takeTurn, hturns]

/-- The deassertion of rst is the reset of the block. -/
theorem driveRst_deassert {s : State} (hrst : s.rst = true) : driveRst false s = resetBlock s := by
  simp [driveRst, hrst]

/-- Settles O55: the registers after the deassertion are those of `State.reset`. -/
theorem resetEvent : Obligations.ResetEvent := by
  refine ⟨fun s hrst => ⟨engineTurn_rst hrst, fun r v => writeReg_rst hrst, readReg_rst hrst⟩,
    fun s rest hturns => ⟨_, step_rst hturns, rfl, rfl, rfl⟩, fun s rest hrst hturns => ?deasserted⟩
  case deasserted =>
    obtain ⟨hS, hfiles, -, hstatus, -, hpending, hirq⟩ := resetValues
    have hstep : step s = .next (resetBlock { s with turns := rest }) := by
      rw [step_rst hturns, driveRst_deassert (s := { s with turns := rest }) hrst]
    exact ⟨_, hstep, hS, hfiles, rfl, hstatus, rfl, hpending, rfl, hirq⟩

end Sys2Proof.Proofs.ResetLine
end
